-- ==== Sys2Proof/Word.lean ====
section
/-! DEFINITION. The value types of SRM (spec/00_scope.md R11, R13): byte, word (16 bits), dword (32 bits = XLEN), and the
access widths. -/

namespace Sys2Proof

/-- 8 bits. -/
abbrev Byte := BitVec 8

/-- SRM's *word*: 16 bits (R13). -/
abbrev Word := BitVec 16

/-- SRM's *dword*: 32 bits, the width XLEN of registers, IP, addresses and CSRs (R6, R13). -/
abbrev DWord := BitVec 32

/-- The access widths of SRM32 (R67). -/
inductive Width where
  | byte
  | word
  | dword
deriving DecidableEq, Repr

/-- How a value narrower than a register is extended (R67). -/
inductive Ext where
  | zero
  | sign
deriving DecidableEq, Repr

end Sys2Proof
end

