-- ==== Sys2Proof/Syntax.lean ====
section
/-! DEFINITION. The instructions of SRM32SM and the three SRM64 rows, one constructor per row of spec/opcode_table.json.
Operands stand in the order of the assembler syntax (spec/30_encoding.md R111). -/

namespace Sys2Proof

/-- A general register number, 0..31 (R20). -/
abbrev RegNum := Fin 32

/-! ## Register aliases (R22; r21 to r31 by the spec's decision D39) -/

abbrev RegNum.zr : RegNum := 0
abbrev RegNum.at' : RegNum := 1
abbrev RegNum.gp : RegNum := 2
abbrev RegNum.tp : RegNum := 3
abbrev RegNum.rp : RegNum := 4
abbrev RegNum.sp : RegNum := 5
abbrev RegNum.fp : RegNum := 6
abbrev RegNum.a0 : RegNum := 7
abbrev RegNum.a1 : RegNum := 8
abbrev RegNum.a2 : RegNum := 9
abbrev RegNum.s0 : RegNum := 10
abbrev RegNum.s1 : RegNum := 11
abbrev RegNum.s2 : RegNum := 12
abbrev RegNum.t0 : RegNum := 13
abbrev RegNum.t1 : RegNum := 14
abbrev RegNum.t2 : RegNum := 15
abbrev RegNum.t3 : RegNum := 16
abbrev RegNum.t4 : RegNum := 17
abbrev RegNum.t5 : RegNum := 18
abbrev RegNum.t6 : RegNum := 19
abbrev RegNum.t7 : RegNum := 20
abbrev RegNum.s3 : RegNum := 21
abbrev RegNum.s4 : RegNum := 22
abbrev RegNum.s5 : RegNum := 23
abbrev RegNum.s6 : RegNum := 24
abbrev RegNum.s7 : RegNum := 25
abbrev RegNum.s8 : RegNum := 26
abbrev RegNum.a3 : RegNum := 27
abbrev RegNum.a4 : RegNum := 28
abbrev RegNum.a5 : RegNum := 29
abbrev RegNum.a6 : RegNum := 30
abbrev RegNum.a7 : RegNum := 31

/-- A 12-bit immediate field (DSI and SSI). -/
abbrev Imm12 := BitVec 12

/-- A 21-bit immediate field (DI). -/
abbrev Imm21 := BitVec 21

/-- A CSR number, 0..4095 (R30). -/
abbrev CsrNum := BitVec 12

/-- The bit position `{rd[0], rs1}` of CSRS and CSRC (R98). -/
abbrev BitPos := BitVec 6

/-- The instruction set. Fields the spec calls unused (R103) are not operands. -/
inductive Instr where
  -- register arithmetic, opcode 0x0 (R121 to R130)
  | add (rd rs1 rs2 : RegNum)
  | sub (rd rs1 rs2 : RegNum)
  | and (rd rs1 rs2 : RegNum)
  | or (rd rs1 rs2 : RegNum)
  | xor (rd rs1 rs2 : RegNum)
  | shr (rd rs1 rs2 : RegNum)
  | asr (rd rs1 rs2 : RegNum)
  | shl (rd rs1 rs2 : RegNum)
  | cch (rd rs1 rs2 : RegNum)
  | bch (rd rs1 rs2 : RegNum)
  -- immediate arithmetic, opcode 0x1 (R141 to R150), and LUI, opcode 0x2 (R152)
  | addi (rd rs1 : RegNum) (imm : Imm12)
  | andi (rd rs1 : RegNum) (imm : Imm12)
  | ori (rd rs1 : RegNum) (imm : Imm12)
  | xori (rd rs1 : RegNum) (imm : Imm12)
  | shri (rd rs1 : RegNum) (imm : Imm12)
  | asri (rd rs1 : RegNum) (imm : Imm12)
  | shli (rd rs1 : RegNum) (imm : Imm12)
  | cchi (rd rs1 : RegNum) (imm : Imm12)
  | bchi (rd rs1 : RegNum) (imm : Imm12)
  | lui (rd : RegNum) (imm : Imm21)
  -- stores, opcode 0x3 (R161 to R163; STQ of SRM64, R302)
  | stb (rs2 rs1 : RegNum) (imm : Imm12)
  | stw (rs2 rs1 : RegNum) (imm : Imm12)
  | std (rs2 rs1 : RegNum) (imm : Imm12)
  | stq (rs2 rs1 : RegNum) (imm : Imm12)
  -- loads, opcode 0x4 (R166 to R170; LDQ and LDSD of SRM64, R303, R304)
  | ldb (rd rs1 : RegNum) (imm : Imm12)
  | ldw (rd rs1 : RegNum) (imm : Imm12)
  | ldd (rd rs1 : RegNum) (imm : Imm12)
  | ldsb (rd rs1 : RegNum) (imm : Imm12)
  | ldsw (rd rs1 : RegNum) (imm : Imm12)
  | ldq (rd rs1 : RegNum) (imm : Imm12)
  | ldsd (rd rs1 : RegNum) (imm : Imm12)
  -- jumps, opcodes 0x5, 0x6, 0x7 (R180 to R188)
  | jal (rd : RegNum) (imm : Imm21)
  | jalr (rd rs1 : RegNum) (imm : Imm12)
  | jeq (rs1 rs2 : RegNum) (imm : Imm12)
  | jlt (rs1 rs2 : RegNum) (imm : Imm12)
  | jslt (rs1 rs2 : RegNum) (imm : Imm12)
  | jne (rs1 rs2 : RegNum) (imm : Imm12)
  | jge (rs1 rs2 : RegNum) (imm : Imm12)
  | jsge (rs1 rs2 : RegNum) (imm : Imm12)
  -- system, opcodes 0x8, 0x9 (R261 to R263)
  | int (imm : Imm21)
  | sysret
  | mret
  -- CSR access, opcode 0xA (R266 to R269)
  | csrw (rs1 : RegNum) (csr : CsrNum)
  | csrr (rd : RegNum) (csr : CsrNum)
  | csrs (csr : CsrNum) (pos : BitPos)
  | csrc (csr : CsrNum) (pos : BitPos)
  -- port input, opcode 0xB (R270 to R274), and output, opcode 0xC (R275 to R277)
  | inb (rd rs1 : RegNum) (imm : Imm12)
  | inw (rd rs1 : RegNum) (imm : Imm12)
  | ind (rd rs1 : RegNum) (imm : Imm12)
  | insb (rd rs1 : RegNum) (imm : Imm12)
  | insw (rd rs1 : RegNum) (imm : Imm12)
  | outb (rs2 rs1 : RegNum) (imm : Imm12)
  | outw (rs2 rs1 : RegNum) (imm : Imm12)
  | outd (rs2 rs1 : RegNum) (imm : Imm12)
  -- multiply and divide, opcode 0xD (R341 to R348)
  | mul (rd rs1 rs2 : RegNum)
  | smul (rd rs1 rs2 : RegNum)
  | mulh (rd rs1 rs2 : RegNum)
  | smulh (rd rs1 rs2 : RegNum)
  | div (rd rs1 rs2 : RegNum)
  | sdiv (rd rs1 rs2 : RegNum)
  | mod (rd rs1 rs2 : RegNum)
  | smod (rd rs1 rs2 : RegNum)
deriving DecidableEq, Repr

/-- The part of the instruction set a row of spec/opcode_table.json belongs to (its "extension"). -/
inductive Extension where
  | base
  | s
  | m
  | srm64
deriving DecidableEq, Repr

end Sys2Proof
end

