-- ==== Sys2Proof/Config.lean ====
section
/-! DEFINITION. What an implementation or its platform fixes (spec/00_scope.md R6): the free values, as constants with
no body, and the parameters that are plain data. -/

namespace Sys2Proof

/-! ## Free values (opaque: nothing in Lean can evaluate one) -/

/-- The three shifts, as `shiftAmountMode` names them (R126 to R128). -/
inductive ShiftOp where
  | shr
  | asr
  | shl
deriving DecidableEq, Repr

/-- `shiftAmountMode(op, a, n)`: the result of a shift whose amount `n` is outside 0..31 (R131, R145; log 10). -/
opaque Config.shiftAmountMode : ShiftOp → DWord → DWord → DWord

/-- The four divisions, as `divResult` names them (R345 to R348). -/
inductive DivOp where
  | div
  | sdiv
  | mod
  | smod
deriving DecidableEq, Repr

/-- `divResult(op, a, b)`: what a division writes in the cases of R350 (log 11). -/
opaque Config.divResult : DivOp → DWord → DWord → DWord

/-- `reservedCsrRead`: what the `n`-th CSR read finds in a reserved CSR number or in the reserved bits of a status
register (R43, R33, R38; log 12). -/
opaque Config.reservedCsrRead : CsrNum → Nat → DWord

/-- One transaction on the I/O port space (R46, R278): never decomposed into narrower ones. -/
inductive PortAccess where
  | read (addr : DWord) (width : Width)
  | write (addr : DWord) (width : Width) (value : DWord)
deriving DecidableEq, Repr

/-- `PortDev`: what the device answers to the read at an address, given the transactions made before it, most recent
first (R46, R278; log 7). The low bits of the access width are the answer. -/
opaque Config.portAnswer : List PortAccess → DWord → Width → DWord

/-! ## Parameters that are plain data -/

/-- The extension letters of the variant name that change what is assigned (R2, R106, R320). -/
structure Variant where
  hasS : Bool
  hasM : Bool
  hasH : Bool
deriving DecidableEq, Repr

/-- A range of byte addresses: `base` to `base + size - 1`. -/
structure Region where
  base : Nat
  size : Nat
deriving DecidableEq, Repr

/-- What stands behind an address of memory (R68). -/
inductive MemKind where
  | ram
  | rom
deriving DecidableEq, Repr

/-- A range of memory of one kind (R68). -/
structure MemRegion where
  region : Region
  kind : MemKind
deriving DecidableEq, Repr

/-- `ExtIrq.masked`: what happens to a masked external interrupt, "chosen by the manufacturer" (R415). -/
inductive MaskedIrq where
  | drop
  | queue (depth : Nat)
deriving DecidableEq, Repr

/-- `fetchCoherence` (R80). -/
inductive FetchCoherence where
  | coherent
  | faultOnStale
deriving DecidableEq, Repr

/-- One request of the environment `ExtIrq` (R407, R415): its cause, and the place the implementation gives it in the
queue of pending requests (0 is the head; past the end is the end; log 9). -/
structure IrqRequest where
  cause : DWord
  slot : Nat
deriving DecidableEq, Repr

/-- The parameters of R6 that the platform fixes once. -/
structure Platform where
  variant : Variant
  memMap : List MemRegion
  portMap : List Region
  maskedIrq : MaskedIrq
  fetch : FetchCoherence
  trapRaAdjust : DWord
deriving DecidableEq, Repr

/-- SRM32SM: base, S and M, all 32 registers (R3). -/
def Config.srm32sm : Variant := { hasS := true, hasM := true, hasH := false }

/-- Every address of the memory (R45), or of the port space (R46). -/
def Config.wholeSpace : List Region := [{ base := 0, size := 2 ^ 32 }]

/-- RAM at every byte address (log 4). -/
def Config.wholeMemory : List MemRegion := Config.wholeSpace.map fun r => { region := r, kind := .ram }

/-- The platform `State.reset` stands on: SRM32SM, RAM and devices everywhere, masked requests dropped, the spec's
recommended `StaleFetch` (R80), `trapRaAdjust` = 0 (R6). The choices are log 4, 8, 9, 13, 14 and 31. -/
def Config.platform : Platform :=
  { variant := Config.srm32sm
    memMap := Config.wholeMemory
    portMap := Config.wholeSpace
    maskedIrq := .drop
    fetch := .faultOnStale
    trapRaAdjust := 0 }

end Sys2Proof
end

