-- ==== Sys2Proof/WellFormed.lean ====
section
/-! DEFINITION. Which instructions are assigned on a variant of the core (spec/30_encoding.md R106, spec/47 R322).
Every operand field fits its encoding by its type; what is left to check is the variant. -/

namespace Sys2Proof

/-- The extension an instruction belongs to (the "extension" of its row in spec/opcode_table.json). -/
def Instr.extension : Instr → Extension
  | .add _ _ _ | .sub _ _ _ | .and _ _ _ | .or _ _ _ | .xor _ _ _ => .base
  | .shr _ _ _ | .asr _ _ _ | .shl _ _ _ | .cch _ _ _ | .bch _ _ _ => .base
  | .addi _ _ _ | .andi _ _ _ | .ori _ _ _ | .xori _ _ _ => .base
  | .shri _ _ _ | .asri _ _ _ | .shli _ _ _ | .cchi _ _ _ | .bchi _ _ _ => .base
  | .lui _ _ => .base
  | .stb _ _ _ | .stw _ _ _ | .std _ _ _ => .base
  | .stq _ _ _ => .srm64
  | .ldb _ _ _ | .ldw _ _ _ | .ldd _ _ _ | .ldsb _ _ _ | .ldsw _ _ _ => .base
  | .ldq _ _ _ | .ldsd _ _ _ => .srm64
  | .jal _ _ | .jalr _ _ _ => .base
  | .jeq _ _ _ | .jlt _ _ _ | .jslt _ _ _ | .jne _ _ _ | .jge _ _ _ | .jsge _ _ _ => .base
  | .int _ | .sysret | .mret => .s
  | .csrw _ _ | .csrr _ _ | .csrs _ _ | .csrc _ _ => .s
  | .inb _ _ _ | .inw _ _ _ | .ind _ _ _ | .insb _ _ _ | .insw _ _ _ => .s
  | .outb _ _ _ | .outw _ _ _ | .outd _ _ _ => .s
  | .mul _ _ _ | .smul _ _ _ | .mulh _ _ _ | .smulh _ _ _ => .m
  | .div _ _ _ | .sdiv _ _ _ | .mod _ _ _ | .smod _ _ _ => .m

/-- The register fields an instruction uses as register numbers (R24; the literals of CSRS and CSRC and unused fields
are none, R322). -/
def Instr.registers : Instr → List RegNum
  | .add rd rs1 rs2 | .sub rd rs1 rs2 | .and rd rs1 rs2 | .or rd rs1 rs2 | .xor rd rs1 rs2 => [rd, rs1, rs2]
  | .shr rd rs1 rs2 | .asr rd rs1 rs2 | .shl rd rs1 rs2 | .cch rd rs1 rs2 | .bch rd rs1 rs2 => [rd, rs1, rs2]
  | .addi rd rs1 _ | .andi rd rs1 _ | .ori rd rs1 _ | .xori rd rs1 _ => [rd, rs1]
  | .shri rd rs1 _ | .asri rd rs1 _ | .shli rd rs1 _ | .cchi rd rs1 _ | .bchi rd rs1 _ => [rd, rs1]
  | .lui rd _ => [rd]
  | .stb rs2 rs1 _ | .stw rs2 rs1 _ | .std rs2 rs1 _ | .stq rs2 rs1 _ => [rs1, rs2]
  | .ldb rd rs1 _ | .ldw rd rs1 _ | .ldd rd rs1 _ | .ldsb rd rs1 _ | .ldsw rd rs1 _ => [rd, rs1]
  | .ldq rd rs1 _ | .ldsd rd rs1 _ => [rd, rs1]
  | .jal rd _ => [rd]
  | .jalr rd rs1 _ => [rd, rs1]
  | .jeq rs1 rs2 _ | .jlt rs1 rs2 _ | .jslt rs1 rs2 _ => [rs1, rs2]
  | .jne rs1 rs2 _ | .jge rs1 rs2 _ | .jsge rs1 rs2 _ => [rs1, rs2]
  | .int _ | .sysret | .mret => []
  | .csrw rs1 _ => [rs1]
  | .csrr rd _ => [rd]
  | .csrs _ _ | .csrc _ _ => []
  | .inb rd rs1 _ | .inw rd rs1 _ | .ind rd rs1 _ | .insb rd rs1 _ | .insw rd rs1 _ => [rd, rs1]
  | .outb rs2 rs1 _ | .outw rs2 rs1 _ | .outd rs2 rs1 _ => [rs1, rs2]
  | .mul rd rs1 rs2 | .smul rd rs1 rs2 | .mulh rd rs1 rs2 | .smulh rd rs1 rs2 => [rd, rs1, rs2]
  | .div rd rs1 rs2 | .sdiv rd rs1 rs2 | .mod rd rs1 rs2 | .smod rd rs1 rs2 => [rd, rs1, rs2]

/-- Does the variant have the extension? SRM64 is outside every variant here (R300, D31; log 30). -/
def Variant.has (v : Variant) : Extension → Bool
  | .base => true
  | .s => v.hasS
  | .m => v.hasM
  | .srm64 => false

/-- `NREGS`: 32 general registers, 16 with H (R20, R320). -/
def Variant.nregs (v : Variant) : Nat := if v.hasH then 16 else 32

/-- The core has every register the instruction names (R322). -/
def Instr.registersExist (v : Variant) (i : Instr) : Bool := i.registers.all fun r => r.val < v.nregs

/-- The instruction is assigned on the variant (R106, R322); otherwise its word is `fault IllegalInstruction`. -/
def Instr.assigned (v : Variant) (i : Instr) : Bool := v.has i.extension && i.registersExist v

/-- Well-formed: assigned on SRM32SM, the variant this model is of (R3). -/
def Instr.wellFormed (i : Instr) : Bool := i.assigned Config.srm32sm

end Sys2Proof
end

