-- ==== Sys2Proof/Decode.lean ====
section
/-! DEFINITION. Decoding (spec/30_encoding.md R90 to R106), total on any bytes and rejecting by name, and the encoder
written from the same tables. Every instruction is one 32-bit word, stored big endian (R61). -/

namespace Sys2Proof

/-- Why bytes are no instruction. -/
inductive DecodeError where
  /-- Fewer than four bytes were given. Safe: nothing is decoded. -/
  | truncated
  /-- An unassigned encoding (R106): `fault IllegalInstruction`. -/
  | unassigned
  /-- Opcode 0x0 or 0xD with an assigned fn4 and fn7 ≠ 0: refused (R102; log 16). -/
  | reservedFn7
  /-- Opcode 0xC with fn4 0x4, the value the source prints for OUTB, OUTW and OUTD alike: refused (R105, R279; log 17). -/
  | printedOutFn4
deriving DecidableEq, Repr

/-! ## Fields (R91, R92, R94 to R98) -/

def fieldOpcode (w : DWord) : BitVec 6 := w.extractLsb' 26 6
def fieldRd (w : DWord) : RegNum := (w.extractLsb' 21 5).toFin
def fieldRs1 (w : DWord) : RegNum := (w.extractLsb' 16 5).toFin
def fieldFn4 (w : DWord) : BitVec 4 := w.extractLsb' 12 4
def fieldRs2 (w : DWord) : RegNum := (w.extractLsb' 7 5).toFin
def fieldFn7 (w : DWord) : BitVec 7 := w.extractLsb' 0 7

/-- The DI immediate, `w[20:0]` (R94). -/
def fieldImm21 (w : DWord) : Imm21 := w.extractLsb' 0 21

/-- The DSI immediate, `w[11:0]` (R95); also the CSR number. -/
def fieldImm12 (w : DWord) : Imm12 := w.extractLsb' 0 12

/-- The SSI immediate, `{w[25:21], w[6:0]}` (R96). -/
def fieldImmSSI (w : DWord) : Imm12 := w.extractLsb' 21 5 ++ w.extractLsb' 0 7

/-- The bit position of CSRS and CSRC, `{rd[0], rs1}` = `w[21:16]` (R98). -/
def fieldPos (w : DWord) : BitPos := w.extractLsb' 16 6

/-! ## The fn4 tables (R101) -/

/-- Opcode 0x0: register arithmetic. -/
def decodeRegArith (w : DWord) : Option Instr :=
  match (fieldFn4 w).toNat with
  | 0x0 => some (.add (fieldRd w) (fieldRs1 w) (fieldRs2 w))
  | 0x1 => some (.sub (fieldRd w) (fieldRs1 w) (fieldRs2 w))
  | 0x2 => some (.and (fieldRd w) (fieldRs1 w) (fieldRs2 w))
  | 0x3 => some (.or (fieldRd w) (fieldRs1 w) (fieldRs2 w))
  | 0x4 => some (.xor (fieldRd w) (fieldRs1 w) (fieldRs2 w))
  | 0x5 => some (.shr (fieldRd w) (fieldRs1 w) (fieldRs2 w))
  | 0x6 => some (.asr (fieldRd w) (fieldRs1 w) (fieldRs2 w))
  | 0x7 => some (.shl (fieldRd w) (fieldRs1 w) (fieldRs2 w))
  | 0x8 => some (.cch (fieldRd w) (fieldRs1 w) (fieldRs2 w))
  | 0x9 => some (.bch (fieldRd w) (fieldRs1 w) (fieldRs2 w))
  | _ => none

/-- Opcode 0x1: immediate arithmetic. -/
def decodeImmArith (w : DWord) : Option Instr :=
  match (fieldFn4 w).toNat with
  | 0x0 => some (.addi (fieldRd w) (fieldRs1 w) (fieldImm12 w))
  | 0x2 => some (.andi (fieldRd w) (fieldRs1 w) (fieldImm12 w))
  | 0x3 => some (.ori (fieldRd w) (fieldRs1 w) (fieldImm12 w))
  | 0x4 => some (.xori (fieldRd w) (fieldRs1 w) (fieldImm12 w))
  | 0x5 => some (.shri (fieldRd w) (fieldRs1 w) (fieldImm12 w))
  | 0x6 => some (.asri (fieldRd w) (fieldRs1 w) (fieldImm12 w))
  | 0x7 => some (.shli (fieldRd w) (fieldRs1 w) (fieldImm12 w))
  | 0x8 => some (.cchi (fieldRd w) (fieldRs1 w) (fieldImm12 w))
  | 0x9 => some (.bchi (fieldRd w) (fieldRs1 w) (fieldImm12 w))
  | _ => none

/-- Opcode 0x3: stores. -/
def decodeStore (w : DWord) : Option Instr :=
  match (fieldFn4 w).toNat with
  | 0x0 => some (.stb (fieldRs2 w) (fieldRs1 w) (fieldImmSSI w))
  | 0x1 => some (.stw (fieldRs2 w) (fieldRs1 w) (fieldImmSSI w))
  | 0x2 => some (.std (fieldRs2 w) (fieldRs1 w) (fieldImmSSI w))
  | 0x3 => some (.stq (fieldRs2 w) (fieldRs1 w) (fieldImmSSI w))
  | _ => none

/-- Opcode 0x4: loads. -/
def decodeLoad (w : DWord) : Option Instr :=
  match (fieldFn4 w).toNat with
  | 0x0 => some (.ldb (fieldRd w) (fieldRs1 w) (fieldImm12 w))
  | 0x1 => some (.ldw (fieldRd w) (fieldRs1 w) (fieldImm12 w))
  | 0x2 => some (.ldd (fieldRd w) (fieldRs1 w) (fieldImm12 w))
  | 0x3 => some (.ldq (fieldRd w) (fieldRs1 w) (fieldImm12 w))
  | 0x4 => some (.ldsb (fieldRd w) (fieldRs1 w) (fieldImm12 w))
  | 0x5 => some (.ldsw (fieldRd w) (fieldRs1 w) (fieldImm12 w))
  | 0x6 => some (.ldsd (fieldRd w) (fieldRs1 w) (fieldImm12 w))
  | _ => none

/-- Opcode 0x6: JALR. -/
def decodeJalr (w : DWord) : Option Instr :=
  match (fieldFn4 w).toNat with
  | 0x0 => some (.jalr (fieldRd w) (fieldRs1 w) (fieldImm12 w))
  | _ => none

/-- Opcode 0x7: conditional jumps. -/
def decodeCondJump (w : DWord) : Option Instr :=
  match (fieldFn4 w).toNat with
  | 0x0 => some (.jeq (fieldRs1 w) (fieldRs2 w) (fieldImmSSI w))
  | 0x1 => some (.jlt (fieldRs1 w) (fieldRs2 w) (fieldImmSSI w))
  | 0x2 => some (.jslt (fieldRs1 w) (fieldRs2 w) (fieldImmSSI w))
  | 0x4 => some (.jne (fieldRs1 w) (fieldRs2 w) (fieldImmSSI w))
  | 0x5 => some (.jge (fieldRs1 w) (fieldRs2 w) (fieldImmSSI w))
  | 0x6 => some (.jsge (fieldRs1 w) (fieldRs2 w) (fieldImmSSI w))
  | _ => none

/-- Opcode 0x9: SYSRET and MRET, with fn7 = 0 (R102, R264). -/
def decodeReturn (w : DWord) : Option Instr :=
  match (fieldFn4 w).toNat, (fieldFn7 w).toNat with
  | 0x1, 0x0 => some .sysret
  | 0x3, 0x0 => some .mret
  | _, _ => none

/-- Opcode 0xA: CSR access. -/
def decodeCsr (w : DWord) : Option Instr :=
  match (fieldFn4 w).toNat with
  | 0x0 => some (.csrw (fieldRs1 w) (fieldImm12 w))
  | 0x1 => some (.csrr (fieldRd w) (fieldImm12 w))
  | 0x2 => some (.csrs (fieldImm12 w) (fieldPos w))
  | 0x3 => some (.csrc (fieldImm12 w) (fieldPos w))
  | _ => none

/-- Opcode 0xB: port input (INSW at 0x5 by the spec's decision D28). -/
def decodeIn (w : DWord) : Option Instr :=
  match (fieldFn4 w).toNat with
  | 0x0 => some (.inb (fieldRd w) (fieldRs1 w) (fieldImm12 w))
  | 0x1 => some (.inw (fieldRd w) (fieldRs1 w) (fieldImm12 w))
  | 0x2 => some (.ind (fieldRd w) (fieldRs1 w) (fieldImm12 w))
  | 0x4 => some (.insb (fieldRd w) (fieldRs1 w) (fieldImm12 w))
  | 0x5 => some (.insw (fieldRd w) (fieldRs1 w) (fieldImm12 w))
  | _ => none

/-- Opcode 0xC: port output (0x0, 0x1, 0x2 by the spec's decision D28). -/
def decodeOut (w : DWord) : Option Instr :=
  match (fieldFn4 w).toNat with
  | 0x0 => some (.outb (fieldRs2 w) (fieldRs1 w) (fieldImmSSI w))
  | 0x1 => some (.outw (fieldRs2 w) (fieldRs1 w) (fieldImmSSI w))
  | 0x2 => some (.outd (fieldRs2 w) (fieldRs1 w) (fieldImmSSI w))
  | _ => none

/-- Opcode 0xD: multiply and divide. -/
def decodeMulDiv (w : DWord) : Option Instr :=
  match (fieldFn4 w).toNat with
  | 0x0 => some (.mul (fieldRd w) (fieldRs1 w) (fieldRs2 w))
  | 0x1 => some (.smul (fieldRd w) (fieldRs1 w) (fieldRs2 w))
  | 0x2 => some (.mulh (fieldRd w) (fieldRs1 w) (fieldRs2 w))
  | 0x3 => some (.smulh (fieldRd w) (fieldRs1 w) (fieldRs2 w))
  | 0x4 => some (.div (fieldRd w) (fieldRs1 w) (fieldRs2 w))
  | 0x5 => some (.sdiv (fieldRd w) (fieldRs1 w) (fieldRs2 w))
  | 0x6 => some (.mod (fieldRd w) (fieldRs1 w) (fieldRs2 w))
  | 0x7 => some (.smod (fieldRd w) (fieldRs1 w) (fieldRs2 w))
  | _ => none

/-! ## The opcode map (R100) -/

/-- The instruction the opcode and fn4 (and for opcode 0x9 fn7) select. -/
def decodeFields (w : DWord) : Option Instr :=
  match (fieldOpcode w).toNat with
  | 0x0 => decodeRegArith w
  | 0x1 => decodeImmArith w
  | 0x2 => some (.lui (fieldRd w) (fieldImm21 w))
  | 0x3 => decodeStore w
  | 0x4 => decodeLoad w
  | 0x5 => some (.jal (fieldRd w) (fieldImm21 w))
  | 0x6 => decodeJalr w
  | 0x7 => decodeCondJump w
  | 0x8 => some (.int (fieldImm21 w))
  | 0x9 => decodeReturn w
  | 0xA => decodeCsr w
  | 0xB => decodeIn w
  | 0xC => decodeOut w
  | 0xD => decodeMulDiv w
  | _ => none

/-- The groups whose fn7 selects nothing but must be 0 (R102). -/
def fn7MustBeZero (w : DWord) : Bool := fieldOpcode w == 0x0 || fieldOpcode w == 0xD

/-- The word the source prints for all three of OUTB, OUTW, OUTD (R279). -/
def isPrintedOut (w : DWord) : Bool := fieldOpcode w == 0xC && fieldFn4 w == 0x4

/-- Decode one instruction word (R100 to R106). -/
def decodeWord (w : DWord) : Except DecodeError Instr :=
  if isPrintedOut w then .error .printedOutFn4
  else match decodeFields w with
    | none => .error .unassigned
    | some i => if fn7MustBeZero w && fieldFn7 w != 0 then .error .reservedFn7 else .ok i

/-! ## Bytes: big endian (R61) -/

/-- The word whose byte at the lowest address is `b0`. -/
def wordOfBytes (b0 b1 b2 b3 : Byte) : DWord := b0 ++ b1 ++ b2 ++ b3

/-- The four bytes of a word, lowest address first. -/
def bytesOfWord (w : DWord) : List Byte :=
  [w.extractLsb' 24 8, w.extractLsb' 16 8, w.extractLsb' 8 8, w.extractLsb' 0 8]

/-- Decode the instruction at the head of a byte sequence; the rest of the sequence is returned with it. -/
def decode : List Byte → Except DecodeError (Instr × List Byte)
  | b0 :: b1 :: b2 :: b3 :: rest =>
    match decodeWord (wordOfBytes b0 b1 b2 b3) with
    | .ok i => .ok (i, rest)
    | .error e => .error e
  | _ => .error .truncated

/-! ## The encoder -/

/-- Format DI (R91). -/
def packDI (op : BitVec 6) (rd : BitVec 5) (imm : Imm21) : DWord := op ++ rd ++ imm

/-- Format DSS (R91). -/
def packDSS (op : BitVec 6) (rd rs1 : BitVec 5) (fn4 : BitVec 4) (rs2 : BitVec 5) (fn7 : BitVec 7) : DWord :=
  op ++ rd ++ rs1 ++ fn4 ++ rs2 ++ fn7

/-- Format DSI (R91). -/
def packDSI (op : BitVec 6) (rd rs1 : BitVec 5) (fn4 : BitVec 4) (imm : Imm12) : DWord :=
  op ++ rd ++ rs1 ++ fn4 ++ imm

/-- Format SSI (R91): the immediate is split (R96). -/
def packSSI (op : BitVec 6) (rs1 : BitVec 5) (fn4 : BitVec 4) (rs2 : BitVec 5) (imm : Imm12) : DWord :=
  op ++ imm.extractLsb' 7 5 ++ rs1 ++ fn4 ++ rs2 ++ imm.extractLsb' 0 7

/-- The 5-bit field of a register number. -/
def regField (r : RegNum) : BitVec 5 := BitVec.ofFin r

/-- Register-register-register form: fn7 is emitted as 0 (R102). -/
def encodeDSS (op : BitVec 6) (fn4 : BitVec 4) (rd rs1 rs2 : RegNum) : DWord :=
  packDSS op (regField rd) (regField rs1) fn4 (regField rs2) 0

def encodeDSI (op : BitVec 6) (fn4 : BitVec 4) (rd rs1 : RegNum) (imm : Imm12) : DWord :=
  packDSI op (regField rd) (regField rs1) fn4 imm

def encodeSSI (op : BitVec 6) (fn4 : BitVec 4) (rs1 rs2 : RegNum) (imm : Imm12) : DWord :=
  packSSI op (regField rs1) fn4 (regField rs2) imm

/-- CSRS and CSRC: position bit 5 in bit 0 of the rd field, bits 4:0 in the rs1 field (R98). -/
def encodeCsrBit (fn4 : BitVec 4) (csr : CsrNum) (pos : BitPos) : DWord :=
  packDSI 0xA ((pos.extractLsb' 5 1).setWidth 5) (pos.extractLsb' 0 5) fn4 csr

/-- The instruction word the assembler emits (R101, R111): unused fields are 0 (R103). -/
def encode : Instr → DWord
  | .add rd rs1 rs2 => encodeDSS 0x0 0x0 rd rs1 rs2
  | .sub rd rs1 rs2 => encodeDSS 0x0 0x1 rd rs1 rs2
  | .and rd rs1 rs2 => encodeDSS 0x0 0x2 rd rs1 rs2
  | .or rd rs1 rs2 => encodeDSS 0x0 0x3 rd rs1 rs2
  | .xor rd rs1 rs2 => encodeDSS 0x0 0x4 rd rs1 rs2
  | .shr rd rs1 rs2 => encodeDSS 0x0 0x5 rd rs1 rs2
  | .asr rd rs1 rs2 => encodeDSS 0x0 0x6 rd rs1 rs2
  | .shl rd rs1 rs2 => encodeDSS 0x0 0x7 rd rs1 rs2
  | .cch rd rs1 rs2 => encodeDSS 0x0 0x8 rd rs1 rs2
  | .bch rd rs1 rs2 => encodeDSS 0x0 0x9 rd rs1 rs2
  | .addi rd rs1 imm => encodeDSI 0x1 0x0 rd rs1 imm
  | .andi rd rs1 imm => encodeDSI 0x1 0x2 rd rs1 imm
  | .ori rd rs1 imm => encodeDSI 0x1 0x3 rd rs1 imm
  | .xori rd rs1 imm => encodeDSI 0x1 0x4 rd rs1 imm
  | .shri rd rs1 imm => encodeDSI 0x1 0x5 rd rs1 imm
  | .asri rd rs1 imm => encodeDSI 0x1 0x6 rd rs1 imm
  | .shli rd rs1 imm => encodeDSI 0x1 0x7 rd rs1 imm
  | .cchi rd rs1 imm => encodeDSI 0x1 0x8 rd rs1 imm
  | .bchi rd rs1 imm => encodeDSI 0x1 0x9 rd rs1 imm
  | .lui rd imm => packDI 0x2 (regField rd) imm
  | .stb rs2 rs1 imm => encodeSSI 0x3 0x0 rs1 rs2 imm
  | .stw rs2 rs1 imm => encodeSSI 0x3 0x1 rs1 rs2 imm
  | .std rs2 rs1 imm => encodeSSI 0x3 0x2 rs1 rs2 imm
  | .stq rs2 rs1 imm => encodeSSI 0x3 0x3 rs1 rs2 imm
  | .ldb rd rs1 imm => encodeDSI 0x4 0x0 rd rs1 imm
  | .ldw rd rs1 imm => encodeDSI 0x4 0x1 rd rs1 imm
  | .ldd rd rs1 imm => encodeDSI 0x4 0x2 rd rs1 imm
  | .ldsb rd rs1 imm => encodeDSI 0x4 0x4 rd rs1 imm
  | .ldsw rd rs1 imm => encodeDSI 0x4 0x5 rd rs1 imm
  | .ldq rd rs1 imm => encodeDSI 0x4 0x3 rd rs1 imm
  | .ldsd rd rs1 imm => encodeDSI 0x4 0x6 rd rs1 imm
  | .jal rd imm => packDI 0x5 (regField rd) imm
  | .jalr rd rs1 imm => encodeDSI 0x6 0x0 rd rs1 imm
  | .jeq rs1 rs2 imm => encodeSSI 0x7 0x0 rs1 rs2 imm
  | .jlt rs1 rs2 imm => encodeSSI 0x7 0x1 rs1 rs2 imm
  | .jslt rs1 rs2 imm => encodeSSI 0x7 0x2 rs1 rs2 imm
  | .jne rs1 rs2 imm => encodeSSI 0x7 0x4 rs1 rs2 imm
  | .jge rs1 rs2 imm => encodeSSI 0x7 0x5 rs1 rs2 imm
  | .jsge rs1 rs2 imm => encodeSSI 0x7 0x6 rs1 rs2 imm
  | .int imm => packDI 0x8 0 imm
  | .sysret => packDSS 0x9 0 0 0x1 0 0
  | .mret => packDSS 0x9 0 0 0x3 0 0
  | .csrw rs1 csr => packDSI 0xA 0 (regField rs1) 0x0 csr
  | .csrr rd csr => packDSI 0xA (regField rd) 0 0x1 csr
  | .csrs csr pos => encodeCsrBit 0x2 csr pos
  | .csrc csr pos => encodeCsrBit 0x3 csr pos
  | .inb rd rs1 imm => encodeDSI 0xB 0x0 rd rs1 imm
  | .inw rd rs1 imm => encodeDSI 0xB 0x1 rd rs1 imm
  | .ind rd rs1 imm => encodeDSI 0xB 0x2 rd rs1 imm
  | .insb rd rs1 imm => encodeDSI 0xB 0x4 rd rs1 imm
  | .insw rd rs1 imm => encodeDSI 0xB 0x5 rd rs1 imm
  | .outb rs2 rs1 imm => encodeSSI 0xC 0x0 rs1 rs2 imm
  | .outw rs2 rs1 imm => encodeSSI 0xC 0x1 rs1 rs2 imm
  | .outd rs2 rs1 imm => encodeSSI 0xC 0x2 rs1 rs2 imm
  | .mul rd rs1 rs2 => encodeDSS 0xD 0x0 rd rs1 rs2
  | .smul rd rs1 rs2 => encodeDSS 0xD 0x1 rd rs1 rs2
  | .mulh rd rs1 rs2 => encodeDSS 0xD 0x2 rd rs1 rs2
  | .smulh rd rs1 rs2 => encodeDSS 0xD 0x3 rd rs1 rs2
  | .div rd rs1 rs2 => encodeDSS 0xD 0x4 rd rs1 rs2
  | .sdiv rd rs1 rs2 => encodeDSS 0xD 0x5 rd rs1 rs2
  | .mod rd rs1 rs2 => encodeDSS 0xD 0x6 rd rs1 rs2
  | .smod rd rs1 rs2 => encodeDSS 0xD 0x7 rd rs1 rs2

/-! ## The opcode table's own words (spec/opcode_table.json) -/

/-- The "match" of an instruction's row. -/
def tableMatch : Instr → DWord
  | .add _ _ _ => 0x00000000 | .sub _ _ _ => 0x00001000 | .and _ _ _ => 0x00002000 | .or _ _ _ => 0x00003000
  | .xor _ _ _ => 0x00004000 | .shr _ _ _ => 0x00005000 | .asr _ _ _ => 0x00006000 | .shl _ _ _ => 0x00007000
  | .cch _ _ _ => 0x00008000 | .bch _ _ _ => 0x00009000
  | .addi _ _ _ => 0x04000000 | .andi _ _ _ => 0x04002000 | .ori _ _ _ => 0x04003000 | .xori _ _ _ => 0x04004000
  | .shri _ _ _ => 0x04005000 | .asri _ _ _ => 0x04006000 | .shli _ _ _ => 0x04007000 | .cchi _ _ _ => 0x04008000
  | .bchi _ _ _ => 0x04009000 | .lui _ _ => 0x08000000
  | .stb _ _ _ => 0x0C000000 | .stw _ _ _ => 0x0C001000 | .std _ _ _ => 0x0C002000 | .stq _ _ _ => 0x0C003000
  | .ldb _ _ _ => 0x10000000 | .ldw _ _ _ => 0x10001000 | .ldd _ _ _ => 0x10002000 | .ldsb _ _ _ => 0x10004000
  | .ldsw _ _ _ => 0x10005000 | .ldq _ _ _ => 0x10003000 | .ldsd _ _ _ => 0x10006000
  | .jal _ _ => 0x14000000 | .jalr _ _ _ => 0x18000000
  | .jeq _ _ _ => 0x1C000000 | .jlt _ _ _ => 0x1C001000 | .jslt _ _ _ => 0x1C002000 | .jne _ _ _ => 0x1C004000
  | .jge _ _ _ => 0x1C005000 | .jsge _ _ _ => 0x1C006000
  | .int _ => 0x20000000 | .sysret => 0x24001000 | .mret => 0x24003000
  | .csrw _ _ => 0x28000000 | .csrr _ _ => 0x28001000 | .csrs _ _ => 0x28002000 | .csrc _ _ => 0x28003000
  | .inb _ _ _ => 0x2C000000 | .inw _ _ _ => 0x2C001000 | .ind _ _ _ => 0x2C002000 | .insb _ _ _ => 0x2C004000
  | .insw _ _ _ => 0x2C005000 | .outb _ _ _ => 0x30000000 | .outw _ _ _ => 0x30001000 | .outd _ _ _ => 0x30002000
  | .mul _ _ _ => 0x34000000 | .smul _ _ _ => 0x34001000 | .mulh _ _ _ => 0x34002000 | .smulh _ _ _ => 0x34003000
  | .div _ _ _ => 0x34004000 | .sdiv _ _ _ => 0x34005000 | .mod _ _ _ => 0x34006000 | .smod _ _ _ => 0x34007000

/-- The "mask" of an instruction's row: opcode and fn4, the opcode alone for LUI, JAL and INT, fn7 too for SYSRET and
MRET. -/
def tableMask : Instr → DWord
  | .lui _ _ | .jal _ _ | .int _ => 0xFC000000
  | .sysret | .mret => 0xFC00F07F
  | .add _ _ _ | .sub _ _ _ | .and _ _ _ | .or _ _ _ | .xor _ _ _ | .shr _ _ _ | .asr _ _ _ | .shl _ _ _
  | .cch _ _ _ | .bch _ _ _
  | .addi _ _ _ | .andi _ _ _ | .ori _ _ _ | .xori _ _ _ | .shri _ _ _ | .asri _ _ _ | .shli _ _ _ | .cchi _ _ _
  | .bchi _ _ _
  | .stb _ _ _ | .stw _ _ _ | .std _ _ _ | .stq _ _ _
  | .ldb _ _ _ | .ldw _ _ _ | .ldd _ _ _ | .ldsb _ _ _ | .ldsw _ _ _ | .ldq _ _ _ | .ldsd _ _ _
  | .jalr _ _ _ | .jeq _ _ _ | .jlt _ _ _ | .jslt _ _ _ | .jne _ _ _ | .jge _ _ _ | .jsge _ _ _
  | .csrw _ _ | .csrr _ _ | .csrs _ _ | .csrc _ _
  | .inb _ _ _ | .inw _ _ _ | .ind _ _ _ | .insb _ _ _ | .insw _ _ _ | .outb _ _ _ | .outw _ _ _ | .outd _ _ _
  | .mul _ _ _ | .smul _ _ _ | .mulh _ _ _ | .smulh _ _ _ | .div _ _ _ | .sdiv _ _ _ | .mod _ _ _
  | .smod _ _ _ => 0xFC00F000

/-- The bits of a word the decoder reads for an instruction; the others are the unused fields of R103. -/
def significantMask : Instr → DWord
  | .int _ => 0xFC1FFFFF
  | .sysret | .mret => 0xFC00F07F
  | .csrw _ _ => 0xFC1FFFFF
  | .csrr _ _ => 0xFFE0FFFF
  | .csrs _ _ | .csrc _ _ => 0xFC3FFFFF
  | .add _ _ _ | .sub _ _ _ | .and _ _ _ | .or _ _ _ | .xor _ _ _ | .shr _ _ _ | .asr _ _ _ | .shl _ _ _
  | .cch _ _ _ | .bch _ _ _
  | .addi _ _ _ | .andi _ _ _ | .ori _ _ _ | .xori _ _ _ | .shri _ _ _ | .asri _ _ _ | .shli _ _ _ | .cchi _ _ _
  | .bchi _ _ _ | .lui _ _
  | .stb _ _ _ | .stw _ _ _ | .std _ _ _ | .stq _ _ _
  | .ldb _ _ _ | .ldw _ _ _ | .ldd _ _ _ | .ldsb _ _ _ | .ldsw _ _ _ | .ldq _ _ _ | .ldsd _ _ _
  | .jal _ _ | .jalr _ _ _ | .jeq _ _ _ | .jlt _ _ _ | .jslt _ _ _ | .jne _ _ _ | .jge _ _ _ | .jsge _ _ _
  | .inb _ _ _ | .inw _ _ _ | .ind _ _ _ | .insb _ _ _ | .insw _ _ _ | .outb _ _ _ | .outw _ _ _ | .outd _ _ _
  | .mul _ _ _ | .smul _ _ _ | .mulh _ _ _ | .smulh _ _ _ | .div _ _ _ | .sdiv _ _ _ | .mod _ _ _
  | .smod _ _ _ => 0xFFFFFFFF

/-! ## The host's entry -/

/-- The instruction the decoder reads from an instruction word whose low `nbits` bits are those of `w`, the rest 0:
SRM's instruction is ONE word, so bit `n` of `w` is bit `n` of the instruction (R7, R90), and its bytes are laid out big
endian (R61). -/
def decodeTableWord (nbits w : Nat) : Option Instr :=
  match decode (bytesOfWord (BitVec.ofNat 32 (w % 2 ^ nbits))) with
  | .ok (i, []) => some i
  | _ => none

end Sys2Proof
end

