-- ==== Sys2Proof/Machine/State.lean ====
section
/-! DEFINITION. Everything the spec gives the machine, as plain data, and the machine after reset (spec/10_state.md). -/

namespace Sys2Proof.Machine

/-- Why the machine stops. None is an SRM exception: the source defines none (R406); no CSR is written and no handler
runs. Each is safe: the model stops where the spec gives no behaviour. -/
inductive Fault where
  /-- The fetched word is unassigned (R106), or assigned on other variants only (R164, R171, R322). Raised by `step` and
  by the SRM64 rows. Safe. -/
  | illegalInstruction
  /-- A step began with `pc[1:0] ≠ 0` (R66). Raised by the fetch. Safe. -/
  | misalignedFetch
  /-- A byte of the fetched word was written by a store since reset and fetch is not coherent (R80). Raised by the fetch.
  Safe. -/
  | staleFetch
  /-- MRET below level 3, or SYSRET, `IN*`, `OUT*` below level 1 (R260). Raised by those meanings. Safe. -/
  | privilegeViolation
  /-- A step would put the reserved level 2 into the mode field (R401), or a trap is to be entered from it. Raised by
  MRET, SYSRET, CSRW, CSRS, CSRC and trap entry. Safe. -/
  | reservedPrivilege
  /-- A load, store or fetch at an address with no memory behind it (R68; log 4). Raised by the memory operations. Safe. -/
  | unmappedAddress
  /-- A store to an address with ROM behind it (R68; log 4): the spec gives it no effect. Raised by STB, STW and STD.
  Safe. -/
  | storeToRom
  /-- A port access with no device behind it (R278; log 8). Raised by `IN*` and `OUT*`. Safe. -/
  | noPortDevice
deriving DecidableEq, Repr

/-- Words the model does not admit. -/
inductive Refusal where
  /-- An instruction that has no meaning yet; raised by `exec`'s arms only. Safe. -/
  | notModelled (mnemonic : String)
  /-- Opcode 0x0 or 0xD with fn7 ≠ 0 (R102; log 16). Raised by `step`. Safe. -/
  | reservedFn7
  /-- Opcode 0xC with fn4 0x4, printed for OUTB, OUTW and OUTD alike (R279; log 17). Raised by `step`. Safe. -/
  | printedOutFn4
deriving DecidableEq, Repr

/-- The privilege levels (R400). -/
inductive PrivMode where
  | user
  | kernel
  | reserved
  | machine
deriving DecidableEq, Repr

/-- The bytes that differ from what an unlisted address reads as, by strictly rising address. -/
abbrev Memory := List Host.Cell

/-- The machine state. -/
structure State where
  /-- `r0` .. `r31` (R20); slot 0 is never read (R21). -/
  regs : Vector DWord 32
  /-- IP: the address of the current instruction (R25). -/
  pc : DWord
  /-- csr0 (R33): bit 0 MIE, bits 2:1 the current privilege mode, its only copy; bits 31:3 reserved. -/
  mstatus : DWord
  /-- csr1 (R34). -/
  miva : DWord
  /-- csr2 (R35). -/
  mra : DWord
  /-- csr3 (R36). -/
  mcause : DWord
  /-- csr4 (R37). -/
  mpriv : DWord
  /-- csr2048 (R38): bit 0 KIE; bits 31:1 reserved. -/
  kstatus : DWord
  /-- csr2049 (R39). -/
  kiva : DWord
  /-- csr2050 (R40). -/
  kra : DWord
  /-- csr2051 (R41). -/
  kcause : DWord
  /-- csr2052 (R42). -/
  kpriv : DWord
  /-- The flat array of 2^32 bytes (R45). -/
  mem : Memory
  /-- The addresses a store has written since reset (R80), strictly rising. -/
  storedTo : List Nat
  /-- The causes of the pending external interrupts, next to be taken first (R48). -/
  irqQueue : List DWord
  /-- What `ExtIrq` presents at the coming instruction boundaries; nothing past the end (R415; log 9). -/
  irqInput : List (Option IrqRequest)
  /-- The model's own: the port transactions made so far, most recent first (R46, R278; log 7). -/
  portTrace : List PortAccess
  /-- The model's own: how many CSR reads have been made, the argument of `Config.reservedCsrRead` (log 12). -/
  freeDraws : Nat
  /-- The model's own: the platform's parameters (R6); no step changes them. -/
  platform : Platform
deriving DecidableEq, Repr

/-- The machine right after reset (R49, R450 to R453): IP 0, Machine mode, external interrupts off; the values the spec
does not give are 0 (log 1, 2, 3). -/
def State.reset : State :=
  { regs := Vector.replicate 32 0
    pc := 0
    mstatus := 0x6
    miva := 0
    mra := 0
    mcause := 0
    mpriv := 0
    kstatus := 0
    kiva := 0
    kra := 0
    kcause := 0
    kpriv := 0
    mem := []
    storedTo := []
    irqQueue := []
    irqInput := []
    portTrace := []
    freeDraws := 0
    platform := Config.platform }

end Sys2Proof.Machine
end

