-- ==== Sys2Proof/Machine/Flags.lean ====
section
/-! DEFINITION. SRM has no flags register (spec/10_state.md R29). What other machines keep in flags is computed on
request: carry and borrow into a register (R129, R130), and the conditions of the conditional jumps (R183 to R188). -/

namespace Sys2Proof.Machine

/-- A truth value in a register: 0x00000000 or 0x00000001 (R129). -/
def ofBool (b : Bool) : DWord := if b then 1 else 0

/-- The carry out of `a + b`: bit 32 of the 33-bit sum (R129, R149). -/
def carryOut (a b : DWord) : Bool := decide (2 ^ 32 ≤ a.toNat + b.toNat)

/-- The borrow out of `a - b`: the unsigned subtraction needs to borrow (R130, R150). -/
def borrowOut (a b : DWord) : Bool := decide (a.toNat < b.toNat)

/-- JEQ (R183). -/
def condEq (a b : DWord) : Bool := a == b

/-- JLT: unsigned (R184). -/
def condLt (a b : DWord) : Bool := decide (a.toNat < b.toNat)

/-- JSLT: signed (R185). -/
def condSlt (a b : DWord) : Bool := decide (a.toInt < b.toInt)

/-- JNE (R186). -/
def condNe (a b : DWord) : Bool := a != b

/-- JGE: unsigned (R187). -/
def condGe (a b : DWord) : Bool := decide (b.toNat ≤ a.toNat)

/-- JSGE: signed (R188). -/
def condSge (a b : DWord) : Bool := decide (b.toInt ≤ a.toInt)

end Sys2Proof.Machine
end

