-- ==== Sys2Proof/Machine/Operands.lean ====
section
/-! DEFINITION. Operand forms: immediates, forced alignment, extension, and the values of the arithmetic instructions
(spec/20_memory.md, spec/40, spec/41, spec/48). -/

namespace Sys2Proof.Machine

/-! ## Immediates (R94 to R97) -/

/-- `sext_12(imm)` (R95, R96). -/
def sext12 (imm : Imm12) : DWord := imm.signExtend 32

/-- `sext_21(imm)` (R94). -/
def sext21 (imm : Imm21) : DWord := imm.signExtend 32

/-- LUI's operand, `imm21 << 11` (R152). -/
def upperImm (imm : Imm21) : DWord := imm ++ (0 : BitVec 11)

/-- INT's cause, `imm[20:2] << 2`, zero-extended (R261). -/
def intCause (imm : Imm21) : DWord := (imm.extractLsb' 2 19 ++ (0 : BitVec 2)).setWidth 32

/-! ## Forced alignment and footprint (R63, R67) -/

/-- The address an access of the width is made at: the low address bits are padded with 0 (R63). -/
def alignTo : Width → DWord → DWord
  | .byte, ea => ea
  | .word, ea => ea.extractLsb' 1 31 ++ (0 : BitVec 1)
  | .dword, ea => ea.extractLsb' 2 30 ++ (0 : BitVec 2)

/-- The byte addresses an access of the width at `a` covers. -/
def footprint : Width → Nat → List Nat
  | .byte, a => [a]
  | .word, a => [a, a + 1]
  | .dword, a => [a, a + 1, a + 2, a + 3]

/-! ## Extension of what was read (R67) -/

/-- `zext_8n` or `sext_8n` of the low bits of the value read. -/
def extend : Ext → Width → DWord → DWord
  | .zero, .byte, v => (v.extractLsb' 0 8).setWidth 32
  | .zero, .word, v => (v.extractLsb' 0 16).setWidth 32
  | .sign, .byte, v => (v.extractLsb' 0 8).signExtend 32
  | .sign, .word, v => (v.extractLsb' 0 16).signExtend 32
  | .zero, .dword, v => v
  | .sign, .dword, v => v

/-- The low bits a store or `OUT*` of the width sends (R67). -/
def lowPart : Width → DWord → DWord
  | .byte, v => (v.extractLsb' 0 8).setWidth 32
  | .word, v => (v.extractLsb' 0 16).setWidth 32
  | .dword, v => v

/-! ## Shifts (R126 to R128, R131, R145) -/

/-- A shift by an amount in 0..31 (R126 to R128). -/
def shiftInRange : ShiftOp → DWord → Nat → DWord
  | .shr, a, n => a >>> n
  | .asr, a, n => a.sshiftRight n
  | .shl, a, n => a <<< n

/-- A shift by the whole register or sign-extended immediate `n`: outside 0..31 the result is open (R131, R145). -/
def shiftValue (op : ShiftOp) (a n : DWord) : DWord :=
  if n.toNat ≤ 31 then shiftInRange op a n.toNat else Config.shiftAmountMode op a n

/-! ## Multiply and divide (R341 to R352) -/

/-- Bits 31:0 of the unsigned product (R341). -/
def mulLow (a b : DWord) : DWord := BitVec.ofNat 32 (a.toNat * b.toNat)

/-- Bits 31:0 of the signed product (R342). -/
def smulLow (a b : DWord) : DWord := BitVec.ofInt 32 (a.toInt * b.toInt)

/-- Bits 63:32 of the unsigned product (R343). -/
def mulHigh (a b : DWord) : DWord := (BitVec.ofNat 64 (a.toNat * b.toNat)).extractLsb' 32 32

/-- Bits 63:32 of the signed product, both operands signed (R344). -/
def smulHigh (a b : DWord) : DWord := (BitVec.ofInt 64 (a.toInt * b.toInt)).extractLsb' 32 32

/-- The operand pairs whose signed quotient and remainder are open (R350). -/
def signedDivOpen (a b : DWord) : Bool := b == 0 || (a == 0x80000000 && b == 0xFFFFFFFF)

/-- DIV (R345). -/
def divValue (a b : DWord) : DWord :=
  if b = 0 then Config.divResult .div a b else BitVec.ofNat 32 (a.toNat / b.toNat)

/-- SDIV: toward zero (R346, R351). -/
def sdivValue (a b : DWord) : DWord :=
  if signedDivOpen a b then Config.divResult .sdiv a b else BitVec.ofInt 32 (a.toInt.tdiv b.toInt)

/-- MOD (R347). -/
def modValue (a b : DWord) : DWord :=
  if b = 0 then Config.divResult .mod a b else BitVec.ofNat 32 (a.toNat % b.toNat)

/-- SMOD: the sign of the dividend (R348, R351). -/
def smodValue (a b : DWord) : DWord :=
  if signedDivOpen a b then Config.divResult .smod a b
  else BitVec.ofInt 32 (a.toInt - a.toInt.tdiv b.toInt * b.toInt)

end Sys2Proof.Machine
end

