-- ==== Sys2Proof/Machine/Ops.lean ====
section
/-! DEFINITION. The named operations over registers, memory, ports, CSRs and traps that every meaning is written with
(spec/10_state.md, spec/20_memory.md, spec/45_system.md, spec/60_exceptions.md). -/

namespace Sys2Proof.Machine

/-- The outcome of one instruction or one step. -/
abbrev Result := Host.Outcome State Fault Refusal

/-! ## General registers (R21) and IP (R27) -/

/-- `x[r]`: register 0 reads as 0. -/
def readReg (r : RegNum) (s : State) : DWord := if r = 0 then 0 else s.regs[r]

/-- `x[r] <- v`: a write to register 0 is discarded. -/
def writeReg (r : RegNum) (v : DWord) (s : State) : State :=
  if r = 0 then s else { s with regs := s.regs.set r.val v r.isLt }

/-- `pc <- t`. -/
def setPc (t : DWord) (s : State) : State := { s with pc := t }

/-- `pc <- pc + 4`, modulo 2^32 (R27, R28). -/
def advance (s : State) : State := setPc (s.pc + 4) s

/-! ## Memory: a canonical list of bytes (R45, R60) -/

/-- What an unlisted address reads as (log 5). -/
def Memory.unlisted : Byte := 0

/-- One byte. -/
def Memory.read : Memory → Nat → Byte
  | [], _ => Memory.unlisted
  | (b, v) :: m, a => if a = b then v else Memory.read m a

/-- Write one byte, keeping the addresses rising and listing no byte that equals `unlisted`. -/
def Memory.write : Memory → Nat → Byte → Memory
  | [], a, v => if v = Memory.unlisted then [] else [(a, v)]
  | (b, x) :: m, a, v =>
    if a < b then (if v = Memory.unlisted then (b, x) :: m else (a, v) :: (b, x) :: m)
    else if a = b then (if v = Memory.unlisted then m else (a, v) :: m)
    else (b, x) :: Memory.write m a v

/-- Addresses strictly rising, from `lo` on and below 2^32, and no listed byte equal to `unlisted`. -/
def Memory.wfFrom : Nat → Memory → Bool
  | _, [] => true
  | lo, (a, v) :: m => decide (lo ≤ a) && decide (a < 2 ^ 32) && (v != Memory.unlisted) && Memory.wfFrom (a + 1) m

/-- The canonical form. -/
def Memory.wf (m : Memory) : Bool := Memory.wfFrom 0 m

/-- `MemRead(a, n)`, big endian: the byte at `a` is the most significant of the n bytes (R60). -/
def Memory.readBE (m : Memory) : Width → Nat → DWord
  | .byte, a => (m.read a).setWidth 32
  | .word, a => (m.read a ++ m.read (a + 1)).setWidth 32
  | .dword, a => m.read a ++ m.read (a + 1) ++ m.read (a + 2) ++ m.read (a + 3)

/-- `MemWrite(a, n, v)`, big endian: the most significant of the low 8n bits of `v` at `a` (R60). -/
def Memory.writeBE (m : Memory) : Width → Nat → DWord → Memory
  | .byte, a, v => m.write a (v.extractLsb' 0 8)
  | .word, a, v => (m.write a (v.extractLsb' 8 8)).write (a + 1) (v.extractLsb' 0 8)
  | .dword, a, v =>
    (((m.write a (v.extractLsb' 24 8)).write (a + 1) (v.extractLsb' 16 8)).write (a + 2)
      (v.extractLsb' 8 8)).write (a + 3) (v.extractLsb' 0 8)

/-- Add an address to a strictly rising list of addresses. -/
def addrInsert (a : Nat) : List Nat → List Nat
  | [] => [a]
  | b :: l => if a < b then a :: b :: l else if a = b then b :: l else b :: addrInsert a l

/-- Add addresses, one by one. -/
def addrInsertAll : List Nat → List Nat → List Nat
  | [], l => l
  | a :: as, l => addrInsertAll as (addrInsert a l)

/-- Strictly rising, from `lo` on and below 2^32. -/
def addrsRise : Nat → List Nat → Bool
  | _, [] => true
  | lo, a :: l => decide (lo ≤ a) && decide (a < 2 ^ 32) && addrsRise (a + 1) l

/-- The region holds the address. -/
def Region.holds (r : Region) (a : Nat) : Bool := decide (r.base ≤ a) && decide (a < r.base + r.size)

/-- Some region of a map holds the address. -/
def inMap (m : List Region) (a : Nat) : Bool := m.any fun r => Region.holds r a

/-- RAM or ROM stands behind the byte (`MemMap`, R68). -/
def memoryAt (a : Nat) (s : State) : Bool := s.platform.memMap.any fun r => Region.holds r.region a

/-- RAM stands behind the byte (`MemMap`, R68). -/
def ramAt (a : Nat) (s : State) : Bool := s.platform.memMap.any fun r => r.kind == .ram && Region.holds r.region a

/-- There is memory behind every byte of the access (R68): it can be read. -/
def mapped (w : Width) (a : DWord) (s : State) : Bool := (footprint w a.toNat).all fun x => memoryAt x s

/-- There is RAM behind every byte of the access (R68): it can be written. -/
def writable (w : Width) (a : DWord) (s : State) : Bool := (footprint w a.toNat).all fun x => ramAt x s

/-- Read memory at an (aligned) address. -/
def loadMem (w : Width) (a : DWord) (s : State) : Except Fault DWord :=
  if mapped w a s then .ok (s.mem.readBE w a.toNat) else .error .unmappedAddress

/-- Write memory at an (aligned) address and record the bytes as stored to (R80). ROM is not written, and a store to it is
a fault: MemMap says which addresses hold ROM, and no rule what a store there does (R68; log 4). -/
def storeMem (w : Width) (a v : DWord) (s : State) : Except Fault State :=
  if writable w a s then
    .ok { s with
      mem := s.mem.writeBE w a.toNat v
      storedTo := addrInsertAll (footprint w a.toNat) s.storedTo }
  else if mapped w a s then .error .storeToRom
  else .error .unmappedAddress

/-- `ea = x[rs1] + sext_12(imm)`, modulo 2^32 (R62). -/
def effAddr (rs1 : RegNum) (imm : Imm12) (s : State) : DWord := readReg rs1 s + sext12 imm

/-- Where a load, store, `IN*` or `OUT*` of the width is made (R62, R63). -/
def accessAddr (w : Width) (rs1 : RegNum) (imm : Imm12) (s : State) : DWord := alignTo w (effAddr rs1 imm s)

/-! ## Privilege (R32, R33, R400) -/

/-- A level from the two bits of the mode field. -/
def PrivMode.ofBits (b : BitVec 2) : PrivMode :=
  match b.toNat with
  | 0 => .user
  | 1 => .kernel
  | 2 => .reserved
  | _ => .machine

/-- The level's number (R400). -/
def PrivMode.toBits : PrivMode → BitVec 2
  | .user => 0
  | .kernel => 1
  | .reserved => 2
  | .machine => 3

/-- The level's number, for the comparisons "at least" (R32). -/
def PrivMode.level : PrivMode → Nat
  | .user => 0
  | .kernel => 1
  | .reserved => 2
  | .machine => 3

/-- The mode field of a value of `mstatus` (R33). -/
def modeField (mstatus : DWord) : PrivMode := PrivMode.ofBits (mstatus.extractLsb' 1 2)

/-- The current privilege mode, `csr[0][2:1]` (R33). -/
def mode (s : State) : PrivMode := modeField s.mstatus

/-- `mode <- m`: only bits 2:1 of `mstatus` change (R33). -/
def setMode (m : PrivMode) (s : State) : State :=
  { s with mstatus := s.mstatus.extractLsb' 3 29 ++ m.toBits ++ s.mstatus.extractLsb' 0 1 }

/-- A saved-mode CSR's level: bits 1:0 (R37, R42). -/
def savedMode (v : DWord) : PrivMode := PrivMode.ofBits (v.extractLsb' 0 2)

/-! ## CSRs (R30 to R43, R265) -/

/-- `need(k)`: the least level that may access CSR `k`, or none for the range 1024-2047 (R31, R265). -/
def csrNeed (k : CsrNum) : Option PrivMode :=
  if k.toNat < 1024 then some .machine
  else if k.toNat < 2048 then none
  else if k.toNat < 3072 then some .kernel
  else some .user

/-- `allowed(k)` (R32, R265). -/
def csrAllowed (k : CsrNum) (s : State) : Bool :=
  match csrNeed k with
  | none => false
  | some m => decide (m.level ≤ (mode s).level)

/-- The free value the next CSR read finds in reserved places (R43). -/
def reservedRead (k : CsrNum) (s : State) : DWord := Config.reservedCsrRead k s.freeDraws

/-- What a permitted read of CSR `k` gives (R33 to R43): the reserved bits of the status registers, and every bit of a
reserved number, are free. -/
def csrValue (k : CsrNum) (s : State) : DWord :=
  match k.toNat with
  | 0 => (reservedRead k s).extractLsb' 3 29 ++ s.mstatus.extractLsb' 0 3
  | 1 => s.miva
  | 2 => s.mra
  | 3 => s.mcause
  | 4 => s.mpriv
  | 2048 => (reservedRead k s).extractLsb' 1 31 ++ s.kstatus.extractLsb' 0 1
  | 2049 => s.kiva
  | 2050 => s.kra
  | 2051 => s.kcause
  | 2052 => s.kpriv
  | _ => reservedRead k s

/-- The word the state holds for CSR `k`, which CSRS and CSRC change one bit of (0 where there is no state, R43). -/
def csrStored (k : CsrNum) (s : State) : DWord :=
  match k.toNat with
  | 0 => s.mstatus
  | 1 => s.miva
  | 2 => s.mra
  | 3 => s.mcause
  | 4 => s.mpriv
  | 2048 => s.kstatus
  | 2049 => s.kiva
  | 2050 => s.kra
  | 2051 => s.kcause
  | 2052 => s.kpriv
  | _ => 0

/-- `csr[k] <- v` (R33 to R43): a reserved number has no state. -/
def setCsr (k : CsrNum) (v : DWord) (s : State) : State :=
  match k.toNat with
  | 0 => { s with mstatus := v }
  | 1 => { s with miva := v }
  | 2 => { s with mra := v }
  | 3 => { s with mcause := v }
  | 4 => { s with mpriv := v }
  | 2048 => { s with kstatus := v }
  | 2049 => { s with kiva := v }
  | 2050 => { s with kra := v }
  | 2051 => { s with kcause := v }
  | 2052 => { s with kpriv := v }
  | _ => s

/-- The write would put the reserved level into the mode field (R265, R401). -/
def writesReservedMode (k : CsrNum) (v : DWord) : Bool := k == 0 && modeField v == .reserved

/-- A CSR write by CSRW, CSRS or CSRC, and the end of the instruction: refused silently without the privilege (R265),
`fault ReservedPrivilege` when it would make the mode 2 (R401). -/
def writeCsr (k : CsrNum) (v : DWord) (s : State) : Result :=
  if csrAllowed k s then
    if writesReservedMode k v then .fault .reservedPrivilege else .next (advance (setCsr k v s))
  else .next (advance s)

/-! ## Ports (R46, R278) -/

/-- A device stands behind the port address. -/
def portPresent (a : DWord) (s : State) : Bool := inMap s.platform.portMap a.toNat

/-- What the device answers to a read now (`PortRead`, R278). -/
def portAnswer (w : Width) (a : DWord) (s : State) : DWord := Config.portAnswer s.portTrace a w

/-- One transaction on the port space. -/
def recordPort (p : PortAccess) (s : State) : State := { s with portTrace := p :: s.portTrace }

/-! ## Taking a trap (R410 to R416) and returning from one (R420) -/

/-- The entry from Machine level: `mpriv` is not written, the mode stays (R411). -/
def enterFromMachine (cause ra : DWord) (s : State) : State :=
  setPc s.miva { s with mra := ra, mcause := cause }

/-- The entry from Kernel level: up to Machine mode (R412). -/
def enterFromKernel (cause ra : DWord) (s : State) : State :=
  setMode .machine (setPc s.miva { s with mra := ra, mcause := cause, mpriv := 1 })

/-- The entry from User level: to Kernel mode (R414). -/
def enterFromUser (cause ra : DWord) (s : State) : State :=
  setMode .kernel (setPc s.kiva { s with kra := ra, kcause := cause, kpriv := 0 })

/-- `TrapEnter(cause, ra)` (R416): one entry for INT and for accepted external interrupts. Level 2 "cannot occur". -/
def trapEnter (cause ra : DWord) (s : State) : Result :=
  match mode s with
  | .machine => .next (enterFromMachine cause ra s)
  | .kernel => .next (enterFromKernel cause ra s)
  | .user => .next (enterFromUser cause ra s)
  | .reserved => .fault .reservedPrivilege

/-- The return shared by MRET and SYSRET: IP from the return-address CSR, the mode from bits 1:0 of the saved-mode CSR;
level 2 is a fault (R262, R263, R420). -/
def trapReturn (ra saved : DWord) (s : State) : Result :=
  if savedMode saved = .reserved then .fault .reservedPrivilege
  else .next (setMode (savedMode saved) (setPc ra s))

/-! ## External interrupts (R415) -/

/-- `accept` (R415). -/
def acceptsIrq (s : State) : Bool :=
  match mode s with
  | .user => true
  | .kernel => s.kstatus.getLsbD 0
  | .machine => s.mstatus.getLsbD 0
  | .reserved => false

/-- Put a request at its place in the queue; a place past the end is the end. -/
def queueInsert : Nat → DWord → List DWord → List DWord
  | 0, c, q => c :: q
  | _ + 1, c, [] => [c]
  | n + 1, c, d :: q => d :: queueInsert n c q

/-- How many masked requests the implementation keeps (R415). -/
def MaskedIrq.capacity : MaskedIrq → Nat
  | .drop => 0
  | .queue depth => depth

/-- The requests to be looked at this boundary: the queue, with the one `ExtIrq` presents now. -/
def pendingIrqs (s : State) : List DWord :=
  match s.irqInput with
  | some r :: _ => queueInsert r.slot r.cause s.irqQueue
  | _ => s.irqQueue

/-- The boundary is over: `ExtIrq` has presented, and of the requests not taken as many stay pending as the
implementation keeps. -/
def afterBoundary (rest : List DWord) (s : State) : State :=
  { s with
    irqInput := s.irqInput.tail
    irqQueue := rest.take (MaskedIrq.capacity s.platform.maskedIrq) }

/-- One instruction boundary (R415): the state after it, and the cause of the external interrupt taken, if any. -/
def boundary (s : State) : State × Option DWord :=
  if acceptsIrq s then
    match pendingIrqs s with
    | [] => (afterBoundary [] s, none)
    | c :: rest => (afterBoundary rest s, some c)
  else (afterBoundary (pendingIrqs s) s, none)

/-! ## Fetch (R12, R61, R66, R80) -/

/-- Some byte of the instruction word at `pc` was written by a store (R80). -/
def fetchIsStale (s : State) : Bool :=
  (footprint .dword s.pc.toNat).any fun x => s.storedTo.contains x

/-- `Fetch(pc)`: the faults in the order of R423. -/
def fetch (s : State) : Except Fault DWord :=
  if s.pc.extractLsb' 0 2 ≠ 0 then .error .misalignedFetch
  else if s.platform.fetch = .faultOnStale ∧ fetchIsStale s then .error .staleFetch
  else loadMem .dword s.pc s

/-- The core has the opcode's extension: S for 0x8 to 0xC, M for 0xD (R106). -/
def opcodeOnVariant (v : Variant) (op : BitVec 6) : Bool :=
  if op = 0xD then v.hasM else if 0x8 ≤ op.toNat ∧ op.toNat ≤ 0xC then v.hasS else true

/-- What a step does with a fetched word the decoder rejects; a word the model refuses is refused only on a core that has
its opcode (R102, R105, R106). On a core with H such a word is refused whatever its register fields hold: the spec does
not order that refusal and R322's illegal instruction (DESIGN CHOICE, log 36). -/
def rejected (v : Variant) (w : DWord) : DecodeError → Result
  | .truncated => .fault .illegalInstruction
  | .unassigned => .fault .illegalInstruction
  | .reservedFn7 => if opcodeOnVariant v (fieldOpcode w) then .refused .reservedFn7 else .fault .illegalInstruction
  | .printedOutFn4 => if opcodeOnVariant v (fieldOpcode w) then .refused .printedOutFn4 else .fault .illegalInstruction

/-- The platform places an instruction word at `pc`, in RAM or ROM: a load from outside, not a store (R453; log 6). -/
def placeWord (v : DWord) (s : State) : State :=
  let a := (alignTo .dword s.pc).toNat
  { s with
    mem := s.mem.writeBE .dword a v
    storedTo := s.storedTo.filter fun x => !(footprint .dword a).contains x }

end Sys2Proof.Machine
end

