-- ==== Sys2Proof/Machine/Arith.lean ====
section
/-! DEFINITION. Register arithmetic: ADD to BCH (spec/40_arithmetic_register.md). -/

namespace Sys2Proof.Machine

/-- The family's shape (R120): both sources are read before the destination is written; IP advances. -/
def aluReg (f : DWord → DWord → DWord) (rd rs1 rs2 : RegNum) (s : State) : Result :=
  .next (advance (writeReg rd (f (readReg rs1 s) (readReg rs2 s)) s))

/-- ADD: the sum modulo 2^32 (R121). -/
def execAdd (rd rs1 rs2 : RegNum) (s : State) : Result := aluReg (fun a b => a + b) rd rs1 rs2 s

/-- SUB: `rs1 - rs2` modulo 2^32 (R122). -/
def execSub (rd rs1 rs2 : RegNum) (s : State) : Result := aluReg (fun a b => a - b) rd rs1 rs2 s

/-- AND: bitwise (R123). -/
def execAnd (rd rs1 rs2 : RegNum) (s : State) : Result := aluReg (fun a b => a &&& b) rd rs1 rs2 s

/-- OR: bitwise (R124). -/
def execOr (rd rs1 rs2 : RegNum) (s : State) : Result := aluReg (fun a b => a ||| b) rd rs1 rs2 s

/-- XOR: bitwise (R125). -/
def execXor (rd rs1 rs2 : RegNum) (s : State) : Result := aluReg (fun a b => a ^^^ b) rd rs1 rs2 s

/-- SHR: logical right shift (R126). -/
def execShr (rd rs1 rs2 : RegNum) (s : State) : Result := aluReg (shiftValue .shr) rd rs1 rs2 s

/-- ASR: arithmetic right shift (R127). -/
def execAsr (rd rs1 rs2 : RegNum) (s : State) : Result := aluReg (shiftValue .asr) rd rs1 rs2 s

/-- SHL: logical left shift (R128). -/
def execShl (rd rs1 rs2 : RegNum) (s : State) : Result := aluReg (shiftValue .shl) rd rs1 rs2 s

/-- CCH: the carry out of `rs1 + rs2` (R129). -/
def execCch (rd rs1 rs2 : RegNum) (s : State) : Result := aluReg (fun a b => ofBool (carryOut a b)) rd rs1 rs2 s

/-- BCH: the borrow out of `rs1 - rs2` (R130). -/
def execBch (rd rs1 rs2 : RegNum) (s : State) : Result := aluReg (fun a b => ofBool (borrowOut a b)) rd rs1 rs2 s

end Sys2Proof.Machine
end

