-- ==== Sys2Proof/Machine/ArithImm.lean ====
section
/-! DEFINITION. Immediate arithmetic: ADDI to BCHI, and LUI (spec/41_arithmetic_immediate.md). -/

namespace Sys2Proof.Machine

/-- The family's shape (R140): the second operand is `sext_12(imm12)`. -/
def aluImm (f : DWord → DWord → DWord) (rd rs1 : RegNum) (imm : Imm12) (s : State) : Result :=
  .next (advance (writeReg rd (f (readReg rs1 s) (sext12 imm)) s))

/-- ADDI: the sum modulo 2^32 (R141). -/
def execAddi (rd rs1 : RegNum) (imm : Imm12) (s : State) : Result := aluImm (fun a i => a + i) rd rs1 imm s

/-- ANDI: bitwise (R142). -/
def execAndi (rd rs1 : RegNum) (imm : Imm12) (s : State) : Result := aluImm (fun a i => a &&& i) rd rs1 imm s

/-- ORI: bitwise (R143). -/
def execOri (rd rs1 : RegNum) (imm : Imm12) (s : State) : Result := aluImm (fun a i => a ||| i) rd rs1 imm s

/-- XORI: bitwise (R144). -/
def execXori (rd rs1 : RegNum) (imm : Imm12) (s : State) : Result := aluImm (fun a i => a ^^^ i) rd rs1 imm s

/-- SHRI: logical right shift (R146). -/
def execShri (rd rs1 : RegNum) (imm : Imm12) (s : State) : Result := aluImm (shiftValue .shr) rd rs1 imm s

/-- ASRI: arithmetic right shift (R147). -/
def execAsri (rd rs1 : RegNum) (imm : Imm12) (s : State) : Result := aluImm (shiftValue .asr) rd rs1 imm s

/-- SHLI: logical left shift (R148). -/
def execShli (rd rs1 : RegNum) (imm : Imm12) (s : State) : Result := aluImm (shiftValue .shl) rd rs1 imm s

/-- CCHI: the carry out of `rs1 + imm` (R149). -/
def execCchi (rd rs1 : RegNum) (imm : Imm12) (s : State) : Result := aluImm (fun a i => ofBool (carryOut a i)) rd rs1 imm s

/-- BCHI: the borrow out of `rs1 - imm` (R150). -/
def execBchi (rd rs1 : RegNum) (imm : Imm12) (s : State) : Result := aluImm (fun a i => ofBool (borrowOut a i)) rd rs1 imm s

/-- LUI: `imm21 << 11`; no register is read (R152). -/
def execLui (rd : RegNum) (imm : Imm21) (s : State) : Result := .next (advance (writeReg rd (upperImm imm) s))

end Sys2Proof.Machine
end

