-- ==== Sys2Proof/Machine/Jump.lean ====
section
/-! DEFINITION. Jumps (spec/43_jumps.md): no delay slot, no link but in JAL and JALR, targets unchecked. -/

namespace Sys2Proof.Machine

/-- JAL: `rd` gets IP+4, IP gets `IP + sext_21(imm)` (R180). -/
def execJal (rd : RegNum) (imm : Imm21) (s : State) : Result :=
  .next (setPc (s.pc + sext21 imm) (writeReg rd (s.pc + 4) s))

/-- JALR: IP gets `x[rs1] + sext_12(imm)`, `x[rs1]` read before `rd` is written (R181). -/
def execJalr (rd rs1 : RegNum) (imm : Imm12) (s : State) : Result :=
  .next (setPc (readReg rs1 s + sext12 imm) (writeReg rd (s.pc + 4) s))

/-- The family's shape for conditional jumps (R182): no register is written. -/
def condJump (cond : DWord → DWord → Bool) (rs1 rs2 : RegNum) (imm : Imm12) (s : State) : Result :=
  if cond (readReg rs1 s) (readReg rs2 s) then .next (setPc (s.pc + sext12 imm) s) else .next (advance s)

/-- JEQ: jump if equal (R183). -/
def execJeq (rs1 rs2 : RegNum) (imm : Imm12) (s : State) : Result := condJump condEq rs1 rs2 imm s

/-- JLT: jump if less, unsigned (R184). -/
def execJlt (rs1 rs2 : RegNum) (imm : Imm12) (s : State) : Result := condJump condLt rs1 rs2 imm s

/-- JSLT: jump if less, signed (R185). -/
def execJslt (rs1 rs2 : RegNum) (imm : Imm12) (s : State) : Result := condJump condSlt rs1 rs2 imm s

/-- JNE: jump if not equal (R186). -/
def execJne (rs1 rs2 : RegNum) (imm : Imm12) (s : State) : Result := condJump condNe rs1 rs2 imm s

/-- JGE: jump if greater or equal, unsigned (R187). -/
def execJge (rs1 rs2 : RegNum) (imm : Imm12) (s : State) : Result := condJump condGe rs1 rs2 imm s

/-- JSGE: jump if greater or equal, signed (R188). -/
def execJsge (rs1 rs2 : RegNum) (imm : Imm12) (s : State) : Result := condJump condSge rs1 rs2 imm s

end Sys2Proof.Machine
end

