-- ==== Sys2Proof/Machine/LoadStore.lean ====
section
/-! DEFINITION. Stores and loads (spec/42_memory_store_load.md). -/

namespace Sys2Proof.Machine

/-- The family's shape for stores (R160): no register is written. -/
def store (w : Width) (rs2 rs1 : RegNum) (imm : Imm12) (s : State) : Result :=
  match storeMem w (accessAddr w rs1 imm s) (readReg rs2 s) s with
  | .ok t => .next (advance t)
  | .error f => .fault f

/-- The family's shape for loads (R165): the base is read before `rd` is written, and the read is made with `rd` = 0
too (R21). -/
def load (w : Width) (x : Ext) (rd rs1 : RegNum) (imm : Imm12) (s : State) : Result :=
  match loadMem w (accessAddr w rs1 imm s) s with
  | .ok v => .next (advance (writeReg rd (extend x w v) s))
  | .error f => .fault f

/-- STB: `x[rs2][7:0]` (R161). -/
def execStb (rs2 rs1 : RegNum) (imm : Imm12) (s : State) : Result := store .byte rs2 rs1 imm s

/-- STW: `x[rs2][15:0]` at an address padded with one 0 (R162). -/
def execStw (rs2 rs1 : RegNum) (imm : Imm12) (s : State) : Result := store .word rs2 rs1 imm s

/-- STD: `x[rs2][31:0]` at an address padded with two 0s (R163). -/
def execStd (rs2 rs1 : RegNum) (imm : Imm12) (s : State) : Result := store .dword rs2 rs1 imm s

/-- LDB: zero-extends a byte (R166). -/
def execLdb (rd rs1 : RegNum) (imm : Imm12) (s : State) : Result := load .byte .zero rd rs1 imm s

/-- LDSB: sign-extends a byte (R167). -/
def execLdsb (rd rs1 : RegNum) (imm : Imm12) (s : State) : Result := load .byte .sign rd rs1 imm s

/-- LDW: zero-extends a word (R168). -/
def execLdw (rd rs1 : RegNum) (imm : Imm12) (s : State) : Result := load .word .zero rd rs1 imm s

/-- LDSW: sign-extends a word (R169). -/
def execLdsw (rd rs1 : RegNum) (imm : Imm12) (s : State) : Result := load .word .sign rd rs1 imm s

/-- LDD: a dword fills the register (R170). -/
def execLdd (rd rs1 : RegNum) (imm : Imm12) (s : State) : Result := load .dword .zero rd rs1 imm s

end Sys2Proof.Machine
end

