-- ==== Sys2Proof/Machine/MulDiv.lean ====
section
/-! DEFINITION. The Multiplication/Division extension (spec/48_muldiv.md). -/

namespace Sys2Proof.Machine

/-- The family's shape (R340): both sources are read before the destination, `rd`, is written (R349); IP advances. -/
def mulDiv (f : DWord → DWord → DWord) (rd rs1 rs2 : RegNum) (s : State) : Result :=
  .next (advance (writeReg rd (f (readReg rs1 s) (readReg rs2 s)) s))

/-- MUL: bits 31:0 of the product (R341). -/
def execMul (rd rs1 rs2 : RegNum) (s : State) : Result := mulDiv mulLow rd rs1 rs2 s

/-- SMUL: bits 31:0 of the signed product (R342). -/
def execSmul (rd rs1 rs2 : RegNum) (s : State) : Result := mulDiv smulLow rd rs1 rs2 s

/-- MULH: bits 63:32 of the unsigned product (R343). -/
def execMulh (rd rs1 rs2 : RegNum) (s : State) : Result := mulDiv mulHigh rd rs1 rs2 s

/-- SMULH: bits 63:32 of the signed product (R344). -/
def execSmulh (rd rs1 rs2 : RegNum) (s : State) : Result := mulDiv smulHigh rd rs1 rs2 s

/-- DIV: unsigned quotient (R345). -/
def execDiv (rd rs1 rs2 : RegNum) (s : State) : Result := mulDiv divValue rd rs1 rs2 s

/-- SDIV: signed quotient, toward zero (R346). -/
def execSdiv (rd rs1 rs2 : RegNum) (s : State) : Result := mulDiv sdivValue rd rs1 rs2 s

/-- MOD: unsigned remainder (R347). -/
def execMod (rd rs1 rs2 : RegNum) (s : State) : Result := mulDiv modValue rd rs1 rs2 s

/-- SMOD: signed remainder, the sign of the dividend (R348). -/
def execSmod (rd rs1 rs2 : RegNum) (s : State) : Result := mulDiv smodValue rd rs1 rs2 s

end Sys2Proof.Machine
end

