-- ==== Sys2Proof/Machine/Port.lean ====
section
/-! DEFINITION. Port input and output (spec/45_system.md). -/

namespace Sys2Proof.Machine

/-- The family's shape for `IN*` (R278): level 1 and up; one transaction, made with `rd` = 0 too (R21). -/
def portIn (w : Width) (x : Ext) (rd rs1 : RegNum) (imm : Imm12) (s : State) : Result :=
  if PrivMode.level (mode s) < 1 then .fault .privilegeViolation
  else if portPresent (accessAddr w rs1 imm s) s then
    .next (advance (writeReg rd (extend x w (portAnswer w (accessAddr w rs1 imm s) s))
      (recordPort (.read (accessAddr w rs1 imm s) w) s)))
  else .fault .noPortDevice

/-- The family's shape for `OUT*` (R278): level 1 and up; one transaction, no register is written. -/
def portOut (w : Width) (rs2 rs1 : RegNum) (imm : Imm12) (s : State) : Result :=
  if PrivMode.level (mode s) < 1 then .fault .privilegeViolation
  else if portPresent (accessAddr w rs1 imm s) s then
    .next (advance (recordPort (.write (accessAddr w rs1 imm s) w (lowPart w (readReg rs2 s))) s))
  else .fault .noPortDevice

/-- INB: zero-extends a byte (R270). -/
def execInb (rd rs1 : RegNum) (imm : Imm12) (s : State) : Result := portIn .byte .zero rd rs1 imm s

/-- INW: zero-extends a word (R271). -/
def execInw (rd rs1 : RegNum) (imm : Imm12) (s : State) : Result := portIn .word .zero rd rs1 imm s

/-- IND: a dword fills the register (R272). -/
def execInd (rd rs1 : RegNum) (imm : Imm12) (s : State) : Result := portIn .dword .zero rd rs1 imm s

/-- INSB: sign-extends a byte, nothing padded (R273). -/
def execInsb (rd rs1 : RegNum) (imm : Imm12) (s : State) : Result := portIn .byte .sign rd rs1 imm s

/-- INSW: sign-extends a word (R274). -/
def execInsw (rd rs1 : RegNum) (imm : Imm12) (s : State) : Result := portIn .word .sign rd rs1 imm s

/-- OUTB (R275). -/
def execOutb (rs2 rs1 : RegNum) (imm : Imm12) (s : State) : Result := portOut .byte rs2 rs1 imm s

/-- OUTW (R276). -/
def execOutw (rs2 rs1 : RegNum) (imm : Imm12) (s : State) : Result := portOut .word rs2 rs1 imm s

/-- OUTD (R277). -/
def execOutd (rs2 rs1 : RegNum) (imm : Imm12) (s : State) : Result := portOut .dword rs2 rs1 imm s

end Sys2Proof.Machine
end

