-- ==== Sys2Proof/Machine/Srm64.lean ====
section
/-! DEFINITION. The SRM64 rows STQ, LDQ, LDSD on SRM32SM (spec/46_srm64.md). -/

namespace Sys2Proof.Machine

/-- An SRM64 row on an SRM32 core: unassigned, `fault IllegalInstruction` (R106; log 30). -/
def srm64Row : Result := .fault .illegalInstruction

/-- STQ: illegal on SRM32 (R164, R302). -/
def execStq (_rs2 _rs1 : RegNum) (_imm : Imm12) (_s : State) : Result := srm64Row

/-- LDQ: illegal on SRM32 (R171, R304). -/
def execLdq (_rd _rs1 : RegNum) (_imm : Imm12) (_s : State) : Result := srm64Row

/-- LDSD: illegal on SRM32 (R171, R303). -/
def execLdsd (_rd _rs1 : RegNum) (_imm : Imm12) (_s : State) : Result := srm64Row

end Sys2Proof.Machine
end

