-- ==== Sys2Proof/Machine/System.lean ====
section
/-! DEFINITION. Interrupt, returns and CSR access (spec/45_system.md, spec/60_exceptions.md). -/

namespace Sys2Proof.Machine

/-- INT: an internal interrupt, always taken; the saved address is the INT's own plus `trapRaAdjust` (R261, R421). -/
def execInt (imm : Imm21) (s : State) : Result := trapEnter (intCause imm) (s.pc + s.platform.trapRaAdjust) s

/-- MRET: level 3 only (R262). -/
def execMret (s : State) : Result :=
  if mode s = .machine then trapReturn s.mra s.mpriv s else .fault .privilegeViolation

/-- SYSRET: level 1 and up; no check that `kpriv` is not higher than the mode (R263). -/
def execSysret (s : State) : Result :=
  if PrivMode.level (mode s) < 1 then .fault .privilegeViolation else trapReturn s.kra s.kpriv s

/-- CSRW: a whole register into a CSR (R266). -/
def execCsrw (rs1 : RegNum) (csr : CsrNum) (s : State) : Result := writeCsr csr (readReg rs1 s) s

/-- CSRR: 0 without the privilege (R267); the read advances the draws of `Config.reservedCsrRead`. -/
def execCsrr (rd : RegNum) (csr : CsrNum) (s : State) : Result :=
  let v := if csrAllowed csr s then csrValue csr s else 0
  .next (advance (writeReg rd v { s with freeDraws := s.freeDraws + 1 }))

/-- The bit a CSRS or CSRC position names, as a 32-bit mask. -/
def csrBitMask (pos : BitPos) : DWord := (1 : DWord) <<< pos.toNat

/-- CSRS: one bit to 1; a position of 32 or more has no effect (R268). -/
def execCsrs (csr : CsrNum) (pos : BitPos) (s : State) : Result :=
  if pos.toNat < 32 then writeCsr csr (csrStored csr s ||| csrBitMask pos) s else .next (advance s)

/-- CSRC: one bit to 0; a position of 32 or more has no effect (R269). -/
def execCsrc (csr : CsrNum) (pos : BitPos) (s : State) : Result :=
  if pos.toNat < 32 then writeCsr csr (csrStored csr s &&& ~~~(csrBitMask pos)) s else .next (advance s)

end Sys2Proof.Machine
end

