-- ==== Sys2Proof/Machine/Dispatch.lean ====
section
/-! DEFINITION. One arm per constructor of Instr: the meaning of each instruction. -/

namespace Sys2Proof.Machine

/-- What an instruction does. -/
def exec (i : Instr) (s : State) : Host.Outcome State Fault Refusal :=
  match i with
  -- register arithmetic, opcode 0x0 (R121 to R130)
  | .add rd rs1 rs2 => Sys2Proof.Machine.execAdd rd rs1 rs2 s
  | .sub rd rs1 rs2 => Sys2Proof.Machine.execSub rd rs1 rs2 s
  | .and rd rs1 rs2 => Sys2Proof.Machine.execAnd rd rs1 rs2 s
  | .or rd rs1 rs2 => Sys2Proof.Machine.execOr rd rs1 rs2 s
  | .xor rd rs1 rs2 => Sys2Proof.Machine.execXor rd rs1 rs2 s
  | .shr rd rs1 rs2 => Sys2Proof.Machine.execShr rd rs1 rs2 s
  | .asr rd rs1 rs2 => Sys2Proof.Machine.execAsr rd rs1 rs2 s
  | .shl rd rs1 rs2 => Sys2Proof.Machine.execShl rd rs1 rs2 s
  | .cch rd rs1 rs2 => Sys2Proof.Machine.execCch rd rs1 rs2 s
  | .bch rd rs1 rs2 => Sys2Proof.Machine.execBch rd rs1 rs2 s
  -- immediate arithmetic, opcode 0x1 (R141 to R150), and LUI, opcode 0x2 (R152)
  | .addi rd rs1 imm => Sys2Proof.Machine.execAddi rd rs1 imm s
  | .andi rd rs1 imm => Sys2Proof.Machine.execAndi rd rs1 imm s
  | .ori rd rs1 imm => Sys2Proof.Machine.execOri rd rs1 imm s
  | .xori rd rs1 imm => Sys2Proof.Machine.execXori rd rs1 imm s
  | .shri rd rs1 imm => Sys2Proof.Machine.execShri rd rs1 imm s
  | .asri rd rs1 imm => Sys2Proof.Machine.execAsri rd rs1 imm s
  | .shli rd rs1 imm => Sys2Proof.Machine.execShli rd rs1 imm s
  | .cchi rd rs1 imm => Sys2Proof.Machine.execCchi rd rs1 imm s
  | .bchi rd rs1 imm => Sys2Proof.Machine.execBchi rd rs1 imm s
  | .lui rd imm => Sys2Proof.Machine.execLui rd imm s
  -- stores, opcode 0x3 (R161 to R163; STQ of SRM64, R302)
  | .stb rs2 rs1 imm => Sys2Proof.Machine.execStb rs2 rs1 imm s
  | .stw rs2 rs1 imm => Sys2Proof.Machine.execStw rs2 rs1 imm s
  | .std rs2 rs1 imm => Sys2Proof.Machine.execStd rs2 rs1 imm s
  | .stq rs2 rs1 imm => Sys2Proof.Machine.execStq rs2 rs1 imm s
  -- loads, opcode 0x4 (R166 to R170; LDQ and LDSD of SRM64, R303, R304)
  | .ldb rd rs1 imm => Sys2Proof.Machine.execLdb rd rs1 imm s
  | .ldw rd rs1 imm => Sys2Proof.Machine.execLdw rd rs1 imm s
  | .ldd rd rs1 imm => Sys2Proof.Machine.execLdd rd rs1 imm s
  | .ldsb rd rs1 imm => Sys2Proof.Machine.execLdsb rd rs1 imm s
  | .ldsw rd rs1 imm => Sys2Proof.Machine.execLdsw rd rs1 imm s
  | .ldq rd rs1 imm => Sys2Proof.Machine.execLdq rd rs1 imm s
  | .ldsd rd rs1 imm => Sys2Proof.Machine.execLdsd rd rs1 imm s
  -- jumps, opcodes 0x5, 0x6, 0x7 (R180 to R188)
  | .jal rd imm => Sys2Proof.Machine.execJal rd imm s
  | .jalr rd rs1 imm => Sys2Proof.Machine.execJalr rd rs1 imm s
  | .jeq rs1 rs2 imm => Sys2Proof.Machine.execJeq rs1 rs2 imm s
  | .jlt rs1 rs2 imm => Sys2Proof.Machine.execJlt rs1 rs2 imm s
  | .jslt rs1 rs2 imm => Sys2Proof.Machine.execJslt rs1 rs2 imm s
  | .jne rs1 rs2 imm => Sys2Proof.Machine.execJne rs1 rs2 imm s
  | .jge rs1 rs2 imm => Sys2Proof.Machine.execJge rs1 rs2 imm s
  | .jsge rs1 rs2 imm => Sys2Proof.Machine.execJsge rs1 rs2 imm s
  -- system, opcodes 0x8, 0x9 (R261 to R263)
  | .int imm => Sys2Proof.Machine.execInt imm s
  | .sysret => Sys2Proof.Machine.execSysret s
  | .mret => Sys2Proof.Machine.execMret s
  -- CSR access, opcode 0xA (R266 to R269)
  | .csrw rs1 csr => Sys2Proof.Machine.execCsrw rs1 csr s
  | .csrr rd csr => Sys2Proof.Machine.execCsrr rd csr s
  | .csrs csr pos => Sys2Proof.Machine.execCsrs csr pos s
  | .csrc csr pos => Sys2Proof.Machine.execCsrc csr pos s
  -- port input, opcode 0xB (R270 to R274), and output, opcode 0xC (R275 to R277)
  | .inb rd rs1 imm => Sys2Proof.Machine.execInb rd rs1 imm s
  | .inw rd rs1 imm => Sys2Proof.Machine.execInw rd rs1 imm s
  | .ind rd rs1 imm => Sys2Proof.Machine.execInd rd rs1 imm s
  | .insb rd rs1 imm => Sys2Proof.Machine.execInsb rd rs1 imm s
  | .insw rd rs1 imm => Sys2Proof.Machine.execInsw rd rs1 imm s
  | .outb rs2 rs1 imm => Sys2Proof.Machine.execOutb rs2 rs1 imm s
  | .outw rs2 rs1 imm => Sys2Proof.Machine.execOutw rs2 rs1 imm s
  | .outd rs2 rs1 imm => Sys2Proof.Machine.execOutd rs2 rs1 imm s
  -- multiply and divide, opcode 0xD (R341 to R348)
  | .mul rd rs1 rs2 => Sys2Proof.Machine.execMul rd rs1 rs2 s
  | .smul rd rs1 rs2 => Sys2Proof.Machine.execSmul rd rs1 rs2 s
  | .mulh rd rs1 rs2 => Sys2Proof.Machine.execMulh rd rs1 rs2 s
  | .smulh rd rs1 rs2 => Sys2Proof.Machine.execSmulh rd rs1 rs2 s
  | .div rd rs1 rs2 => Sys2Proof.Machine.execDiv rd rs1 rs2 s
  | .sdiv rd rs1 rs2 => Sys2Proof.Machine.execSdiv rd rs1 rs2 s
  | .mod rd rs1 rs2 => Sys2Proof.Machine.execMod rd rs1 rs2 s
  | .smod rd rs1 rs2 => Sys2Proof.Machine.execSmod rd rs1 rs2 s

end Sys2Proof.Machine
end

