-- ==== Sys2Proof/Machine/Step.lean ====
section
/-! DEFINITION. One step (spec/00_scope.md R12): an accepted external interrupt, or else one instruction. -/

namespace Sys2Proof.Machine

/-- Fetch, decode, check the variant, execute (R12, R106, R322). -/
def runInstruction (s : State) : Result :=
  match fetch s with
  | .error f => .fault f
  | .ok w =>
    match decode (bytesOfWord w) with
    | .error e => rejected s.platform.variant w e
    | .ok (i, _) => if i.assigned s.platform.variant then exec i s else .fault .illegalInstruction

/-- The instruction cycle (R12): at the boundary an accepted external interrupt is taken, and that is the whole step;
otherwise the instruction at IP runs. -/
def step (s : State) : Host.Outcome State Fault Refusal :=
  match boundary s with
  | (t, some cause) => trapEnter cause t.pc t
  | (t, none) => runInstruction t

/-- The instruction word whose low `nbits` bits are those of `w`, the rest 0, stored where the next step fetches: at
`pc`, from outside the machine (log 6). With no accepted interrupt, an aligned `pc` and memory behind it the next step
runs it. -/
def State.withFetchWord (s : State) (nbits w : Nat) : State := placeWord (BitVec.ofNat 32 (w % 2 ^ nbits)) s

end Sys2Proof.Machine
end

