-- ==== Sys2Proof/Machine/Pseudo.lean ====
section
/-! DEFINITION. The assembler's pseudo- and macro-instructions (spec/44_pseudo_and_macro.md, R280, R281, R360 to R362):
what each stands for, in the spec's corrected readings where the printed text does not compute its description (D38;
log 34). They add no state and no behaviour (R241); the decoder never produces one. -/

namespace Sys2Proof.Machine

/-- Mnemonics that stand for one real instruction (R200). -/
inductive Pseudo where
  | nop
  | not (rd rs1 : RegNum)
  | inc (rd rs1 : RegNum)
  | dec (rd rs1 : RegNum)
  | mov (rd rs1 : RegNum)
  | movIp (rd : RegNum)
  | ret
  | clr (rd : RegNum)
  | neg (rd : RegNum)
  | slt (rd rs1 rs2 : RegNum)
  | jle (rs1 rs2 : RegNum) (imm : Imm12)
  | jgt (rs1 rs2 : RegNum) (imm : Imm12)
  | jmp (imm : Imm21)
  | sgt (rd rs1 rs2 : RegNum)
  | jz (rs1 : RegNum) (imm : Imm12)
  | jnz (rs1 : RegNum) (imm : Imm12)
  | jlz (rs1 : RegNum) (imm : Imm12)
  | jgz (rs1 : RegNum) (imm : Imm12)
  | lea (rd rs1 : RegNum) (imm : Imm12)
  | syscall
  | sysbreak
deriving DecidableEq, Repr

/-- The real instruction of a pseudo-instruction (R201 to R220, R280, R281). -/
def expandPseudo : Pseudo → Instr
  | .nop => .add .zr .zr .zr
  | .not rd rs1 => .xori rd rs1 (-1)
  | .inc rd rs1 => .addi rd rs1 1
  | .dec rd rs1 => .addi rd rs1 (-1)
  | .mov rd rs1 => .add rd rs1 .zr
  | .movIp rd => .jal rd 4
  | .ret => .jalr .zr .rp 0
  | .clr rd => .xor rd rd rd
  | .neg rd => .sub rd .zr rd
  | .slt rd rs1 rs2 => .bch rd rs1 rs2
  | .jle rs1 rs2 imm => .jge rs2 rs1 imm
  | .jgt rs1 rs2 imm => .jlt rs2 rs1 imm
  | .jmp imm => .jal .zr imm
  | .sgt rd rs1 rs2 => .bch rd rs2 rs1
  | .jz rs1 imm => .jeq rs1 .zr imm
  | .jnz rs1 imm => .jne rs1 .zr imm
  | .jlz rs1 imm => .jslt rs1 .zr imm
  | .jgz rs1 imm => .jslt .zr rs1 imm
  | .lea rd rs1 imm => .addi rd rs1 imm
  | .syscall => .int 0x0
  | .sysbreak => .int 0x4

/-- The operations of the M extension, for the immediate macros (R360). -/
inductive MulDivOp where
  | mul
  | smul
  | mulh
  | smulh
  | div
  | sdiv
  | mod
  | smod
deriving DecidableEq, Repr

/-- The register form of an M operation. -/
def MulDivOp.instr : MulDivOp → RegNum → RegNum → RegNum → Instr
  | .mul => .mul
  | .smul => .smul
  | .mulh => .mulh
  | .smulh => .smulh
  | .div => .div
  | .sdiv => .sdiv
  | .mod => .mod
  | .smod => .smod

/-- Mnemonics that stand for several real instructions (R230). -/
inductive Macro where
  | ldi (rd : RegNum) (imm : DWord)
  | push (rs : List RegNum)
  | pop (rds : List RegNum)
  | xchg (rs1 rs2 : RegNum)
  | ldbupdt (rd rs1 : RegNum) (imm : Imm12)
  | ldsbupdt (rd rs1 : RegNum) (imm : Imm12)
  | ldwupdt (rd rs1 : RegNum) (imm : Imm12)
  | ldswupdt (rd rs1 : RegNum) (imm : Imm12)
  | lddupdt (rd rs1 : RegNum) (imm : Imm12)
  | stbupdt (rs2 rs1 : RegNum) (imm : Imm12)
  | stwupdt (rs2 rs1 : RegNum) (imm : Imm12)
  | stdupdt (rs2 rs1 : RegNum) (imm : Imm12)
  | sslt (rd rs1 rs2 : RegNum)
  | ssgt (rd rs1 rs2 : RegNum)
  | bst (rd : RegNum) (bit : Fin 32)
  | bcl (rd : RegNum) (bit : Fin 32)
  | bfl (rd : RegNum) (bit : Fin 32)
  | mulDivImm (op : MulDivOp) (rd rs1 : RegNum) (imm : DWord)
  | madd (rd rs1 rs2 : RegNum)
  | smadd (rd rs1 rs2 : RegNum)
  | maddi (rd rs1 : RegNum) (imm : DWord)
  | smaddi (rd rs1 : RegNum) (imm : DWord)
deriving DecidableEq, Repr

/-- LDI by the spec's reading (R231). -/
def expandLdi (rd : RegNum) (imm : DWord) : List Instr :=
  if -2048 ≤ imm.toInt ∧ imm.toInt ≤ 2047 then [.addi rd .zr (imm.extractLsb' 0 12)]
  else
    .lui rd (imm.extractLsb' 11 21) ::
      (if imm.extractLsb' 0 11 = 0 then [] else [.addi rd rd ((imm.extractLsb' 0 11).setWidth 12)])

/-- A displacement the assembler computes, as the 12 signed bits of DSI and SSI; none is the assembly error of R113. -/
def asmImm12 (n : Int) : Option Imm12 := if -2048 ≤ n ∧ n ≤ 2047 then some (BitVec.ofInt 12 n) else none

/-- The stores of a run of PUSHes, the `x`-th and following, where every displacement fits (R232, corrected; R113). -/
def pushStores : Nat → List RegNum → Option (List Instr)
  | _, [] => some []
  | x, r :: rs =>
    (asmImm12 (-4 * (x + 1))).bind fun d => (pushStores (x + 1) rs).map fun is => .std r .sp d :: is

/-- The loads of a run of POPs, the `x`-th and following, where every displacement fits (R233, corrected; R113). -/
def popLoads : Nat → List RegNum → Option (List Instr)
  | _, [] => some []
  | x, r :: rs =>
    (asmImm12 (4 * x)).bind fun d => (popLoads (x + 1) rs).map fun is => .ldd r .sp d :: is

/-- The accesses of a run of PUSHes or POPs, and `sp` moved by `n` after them (R232, R233; R113). -/
def thenMoveSp (run : Option (List Instr)) (n : Int) : Option (List Instr) :=
  run.bind fun is => (asmImm12 n).map fun d => is ++ [.addi .sp .sp d]

/-- The instructions a macro-instruction expands to (R231 to R240, R215, R360 to R362); none where the assembler rejects
it: a run of more than 512 PUSHes or 511 POPs needs an immediate that does not fit its field (R113). -/
def expandMacro : Macro → Option (List Instr)
  | .ldi rd imm => some (expandLdi rd imm)
  | .push rs => thenMoveSp (pushStores 0 rs) (-4 * rs.length)
  | .pop rds => thenMoveSp (popLoads 0 rds) (4 * rds.length)
  | .xchg rs1 rs2 => some [.xor rs1 rs1 rs2, .xor rs2 rs1 rs2, .xor rs1 rs1 rs2]
  | .ldbupdt rd rs1 imm => some [.ldb rd rs1 imm, .addi rs1 rs1 imm]
  | .ldsbupdt rd rs1 imm => some [.ldsb rd rs1 imm, .addi rs1 rs1 imm]
  | .ldwupdt rd rs1 imm => some [.ldw rd rs1 imm, .addi rs1 rs1 imm]
  | .ldswupdt rd rs1 imm => some [.ldsw rd rs1 imm, .addi rs1 rs1 imm]
  | .lddupdt rd rs1 imm => some [.ldd rd rs1 imm, .addi rs1 rs1 imm]
  | .stbupdt rs2 rs1 imm => some [.stb rs2 rs1 imm, .addi rs1 rs1 imm]
  | .stwupdt rs2 rs1 imm => some [.stw rs2 rs1 imm, .addi rs1 rs1 imm]
  | .stdupdt rs2 rs1 imm => some [.std rs2 rs1 imm, .addi rs1 rs1 imm]
  | .sslt rd rs1 rs2 => some [.sub rd rs1 rs2, .shri rd rd 31]
  | .ssgt rd rs1 rs2 => some [.sub rd rs2 rs1, .shri rd rd 31]
  | .bst rd bit =>
    if bit.val < 11 then some [.ori rd rd (1 <<< bit.val)]
    else some (expandLdi .at' (1 <<< bit.val) ++ [.or rd rd .at'])
  | .bcl rd bit =>
    if bit.val < 11 then some [.andi rd rd (~~~(1 <<< bit.val))]
    else some (expandLdi .at' (~~~(1 <<< bit.val)) ++ [.and rd rd .at'])
  | .bfl rd bit =>
    if bit.val < 11 then some [.xori rd rd (1 <<< bit.val)]
    else some (expandLdi .at' (1 <<< bit.val) ++ [.xor rd rd .at'])
  | .mulDivImm op rd rs1 imm => some (expandLdi .at' imm ++ [op.instr rd rs1 .at'])
  | .madd rd rs1 rs2 => some [.mul .at' rs1 rs2, .add rd rd .at']
  | .smadd rd rs1 rs2 => some [.smul .at' rs1 rs2, .add rd rd .at']
  | .maddi rd rs1 imm => some (expandLdi .at' imm ++ [.mul .at' rs1 .at', .add rd rd .at'])
  | .smaddi rd rs1 imm => some (expandLdi .at' imm ++ [.smul .at' rs1 .at', .add rd rd .at'])

/-- Instructions one after another, stopping at the first stop. -/
def execAll : List Instr → State → Result
  | [], s => .next s
  | i :: is, s =>
    match exec i s with
    | .next t => execAll is t
    | .fault f => .fault f
    | .refused r => .refused r

end Sys2Proof.Machine
end

