-- ==== Sys2Proof/Safety.lean ====
section
/-! DEFINITION. The terms the statements use: what an instruction may touch, what two states share, how an instruction
completes, and what a good state is. -/

namespace Sys2Proof

/-! ## What an instruction may touch -/

/-- The general register an instruction writes (R24); none where the `rd` field is no destination. -/
def Instr.dest : Instr → Option RegNum
  | .add rd _ _ | .sub rd _ _ | .and rd _ _ | .or rd _ _ | .xor rd _ _ => some rd
  | .shr rd _ _ | .asr rd _ _ | .shl rd _ _ | .cch rd _ _ | .bch rd _ _ => some rd
  | .addi rd _ _ | .andi rd _ _ | .ori rd _ _ | .xori rd _ _ => some rd
  | .shri rd _ _ | .asri rd _ _ | .shli rd _ _ | .cchi rd _ _ | .bchi rd _ _ => some rd
  | .lui rd _ => some rd
  | .stb _ _ _ | .stw _ _ _ | .std _ _ _ | .stq _ _ _ => none
  | .ldb rd _ _ | .ldw rd _ _ | .ldd rd _ _ | .ldsb rd _ _ | .ldsw rd _ _ | .ldq rd _ _ | .ldsd rd _ _ => some rd
  | .jal rd _ | .jalr rd _ _ => some rd
  | .jeq _ _ _ | .jlt _ _ _ | .jslt _ _ _ | .jne _ _ _ | .jge _ _ _ | .jsge _ _ _ => none
  | .int _ | .sysret | .mret => none
  | .csrw _ _ | .csrs _ _ | .csrc _ _ => none
  | .csrr rd _ => some rd
  | .inb rd _ _ | .inw rd _ _ | .ind rd _ _ | .insb rd _ _ | .insw rd _ _ => some rd
  | .outb _ _ _ | .outw _ _ _ | .outd _ _ _ => none
  | .mul rd _ _ | .smul rd _ _ | .mulh rd _ _ | .smulh rd _ _ => some rd
  | .div rd _ _ | .sdiv rd _ _ | .mod rd _ _ | .smod rd _ _ => some rd

/-- The instruction may set IP to something other than IP+4 (R25, R27). -/
def Instr.setsIp : Instr → Bool
  | .jal _ _ | .jalr _ _ _ | .jeq _ _ _ | .jlt _ _ _ | .jslt _ _ _ | .jne _ _ _ | .jge _ _ _ | .jsge _ _ _ => true
  | .int _ | .sysret | .mret => true
  | _ => false

/-- The instruction may change a CSR (R30): the three CSR writes, the trap and the two returns. -/
def Instr.touchesCsrs : Instr → Bool
  | .csrw _ _ | .csrs _ _ | .csrc _ _ | .int _ | .sysret | .mret => true
  | _ => false

/-- A store, by its width, base and displacement. -/
def Instr.storeWidth : Instr → Option (Width × RegNum × Imm12)
  | .stb _ rs1 imm => some (.byte, rs1, imm)
  | .stw _ rs1 imm => some (.word, rs1, imm)
  | .std _ rs1 imm => some (.dword, rs1, imm)
  | _ => none

/-- A load or a store, by its width, base and displacement. -/
def Instr.memAccess : Instr → Option (Width × RegNum × Imm12)
  | .stb _ rs1 imm | .ldb _ rs1 imm | .ldsb _ rs1 imm => some (.byte, rs1, imm)
  | .stw _ rs1 imm | .ldw _ rs1 imm | .ldsw _ rs1 imm => some (.word, rs1, imm)
  | .std _ rs1 imm | .ldd _ rs1 imm => some (.dword, rs1, imm)
  | _ => none

/-- A port access, by its width, base and displacement. -/
def Instr.portAccess : Instr → Option (Width × RegNum × Imm12)
  | .inb _ rs1 imm | .insb _ rs1 imm | .outb _ rs1 imm => some (.byte, rs1, imm)
  | .inw _ rs1 imm | .insw _ rs1 imm | .outw _ rs1 imm => some (.word, rs1, imm)
  | .ind _ rs1 imm | .outd _ rs1 imm => some (.dword, rs1, imm)
  | _ => none

end Sys2Proof

namespace Sys2Proof.Machine

/-! ## What two states share -/

/-- Every general register but those listed reads as before. -/
def SameRegsBut (rds : List RegNum) (s t : State) : Prop := ∀ r, r ∉ rds → readReg r t = readReg r s

/-- Every bit of `mstatus` but the mode field is as before. -/
def SameStatusButMode (s t : State) : Prop := ∀ k, k ≠ 1 → k ≠ 2 → t.mstatus.getLsbD k = s.mstatus.getLsbD k

/-- Machine mode's own CSRs other than `mstatus` are as before (R403). -/
def SameMachineCsrs (s t : State) : Prop := t.miva = s.miva ∧ t.mra = s.mra ∧ t.mcause = s.mcause ∧ t.mpriv = s.mpriv

/-- Kernel mode's own CSRs are as before (R403). -/
def SameKernelCsrs (s t : State) : Prop :=
  t.kstatus = s.kstatus ∧ t.kiva = s.kiva ∧ t.kra = s.kra ∧ t.kcause = s.kcause ∧ t.kpriv = s.kpriv

/-- Every CSR is as before, all bits. -/
def SameCsrs (s t : State) : Prop := t.mstatus = s.mstatus ∧ SameMachineCsrs s t ∧ SameKernelCsrs s t

/-- Every byte of memory reads as before, and no store was recorded. -/
def SameMem (s t : State) : Prop := (∀ a, t.mem.read a = s.mem.read a) ∧ t.storedTo = s.storedTo

/-- The pending and coming interrupts and the platform are as before. -/
def SameIrqs (s t : State) : Prop := t.irqQueue = s.irqQueue ∧ t.irqInput = s.irqInput ∧ t.platform = s.platform

/-- The port space, the draws of free values, the interrupts and the platform are as before. -/
def SameOutside (s t : State) : Prop := t.portTrace = s.portTrace ∧ t.freeDraws = s.freeDraws ∧ SameIrqs s t

/-! ## How an instruction completes -/

/-- From `s` to `t`, register `rd` got `v` (nothing, if `rd` is `r0`), IP is `target`, and nothing else changed. -/
def WritesAndJumps (rd : RegNum) (v target : DWord) (s t : State) : Prop :=
  readReg rd t = (if rd = 0 then 0 else v) ∧ t.pc = target ∧
  SameRegsBut [rd] s t ∧ SameCsrs s t ∧ SameMem s t ∧ SameOutside s t

/-- The instruction answers a next state in which `rd` holds `v` and IP is `target`, and nothing else changed. -/
def JumpsTo (i : Instr) (rd : RegNum) (v target : DWord) (s : State) : Prop :=
  ∃ t, exec i s = .next t ∧ WritesAndJumps rd v target s t

/-- The instruction answers a next state in which `rd` holds `v` and IP advanced by 4, and nothing else changed. -/
def CompletesWith (i : Instr) (rd : RegNum) (v : DWord) (s : State) : Prop := JumpsTo i rd v (s.pc + 4) s

/-- From `s` to `t` only IP changed, to `target`. -/
def OnlyMoved (target : DWord) (s t : State) : Prop :=
  t.pc = target ∧ SameRegsBut [] s t ∧ SameCsrs s t ∧ SameMem s t ∧ SameOutside s t

/-- The instruction answers a next state in which only IP changed, to `target`. -/
def OnlyMovesTo (i : Instr) (target : DWord) (s : State) : Prop := ∃ t, exec i s = .next t ∧ OnlyMoved target s t

/-! ## Addresses, stores and ports -/

/-- R62's sum as a number: base plus signed displacement, modulo 2^32. -/
def baseSum (rs1 : RegNum) (imm : Imm12) (s : State) : Nat := (((readReg rs1 s).toNat + imm.toInt) % 2 ^ 32).toNat

/-- From `s` to `t` only the bytes at the listed addresses may differ; they are recorded as stored to; IP advanced by 4,
and nothing else changed. -/
def OnlyStores (bytes : List Nat) (s t : State) : Prop :=
  (∀ a, a ∉ bytes → t.mem.read a = s.mem.read a) ∧ (∀ a, a ∈ t.storedTo ↔ a ∈ bytes ∨ a ∈ s.storedTo) ∧
  t.pc = s.pc + 4 ∧ SameRegsBut [] s t ∧ SameCsrs s t ∧ SameOutside s t

/-- From `s` to `t` one port transaction was made, `rd` got `v` (nothing, if `rd` is `r0`), IP advanced by 4, and nothing
else changed. -/
def Transacts (p : PortAccess) (rd : RegNum) (v : DWord) (s t : State) : Prop :=
  t.portTrace = p :: s.portTrace ∧ readReg rd t = (if rd = 0 then 0 else v) ∧ t.pc = s.pc + 4 ∧
  SameRegsBut [rd] s t ∧ SameCsrs s t ∧ SameMem s t ∧ t.freeDraws = s.freeDraws ∧ SameIrqs s t

/-! ## Encodings with no instruction -/

/-- R106 on SRM32SM, by opcode, fn4 and fn7: the unassigned cells. -/
def UnassignedCell (op fn4 fn7 : Nat) : Prop :=
  (op = 0x0 ∧ 0xA ≤ fn4) ∨ (op = 0x1 ∧ (fn4 = 0x1 ∨ 0xA ≤ fn4)) ∨ (op = 0x3 ∧ 0x3 ≤ fn4) ∨
  (op = 0x4 ∧ (fn4 = 0x3 ∨ 0x6 ≤ fn4)) ∨ (op = 0x6 ∧ fn4 ≠ 0x0) ∨ (op = 0x7 ∧ (fn4 = 0x3 ∨ 0x7 ≤ fn4)) ∨
  (op = 0x9 ∧ ¬((fn4 = 0x1 ∨ fn4 = 0x3) ∧ fn7 = 0x0)) ∨ (op = 0xA ∧ 0x4 ≤ fn4) ∨
  (op = 0xB ∧ (fn4 = 0x3 ∨ 0x6 ≤ fn4)) ∨ (op = 0xC ∧ (fn4 = 0x3 ∨ 0x5 ≤ fn4)) ∨ (op = 0xD ∧ 0x8 ≤ fn4) ∨ 0xE ≤ op

/-- R24, R103: the opcodes and fn4 whose `rd` field is a register number. -/
def RdIsRegister (op fn4 : Nat) : Prop :=
  op ∈ [0x0, 0x1, 0x2, 0x4, 0x5, 0x6, 0xB, 0xD] ∨ (op = 0xA ∧ fn4 = 0x1)

/-- R24, R103: the opcodes and fn4 whose `rs1` field is a register number. -/
def Rs1IsRegister (op fn4 : Nat) : Prop :=
  op ∈ [0x0, 0x1, 0x3, 0x4, 0x6, 0x7, 0xB, 0xC, 0xD] ∨ (op = 0xA ∧ fn4 = 0x0)

/-- R24: the opcodes whose `rs2` field is a register number. -/
def Rs2IsRegister (op : Nat) : Prop := op ∈ [0x0, 0x3, 0x7, 0xC, 0xD]

/-- R106, R322, of a word that decodes: no SRM64 row; opcodes 0x8 to 0xC with S, 0xD with M; with H no register 16..31. -/
def AssignedOn (v : Variant) (w : DWord) : Prop :=
  let op := (fieldOpcode w).toNat
  let fn4 := (fieldFn4 w).toNat
  ¬((op = 0x3 ∧ fn4 = 0x3) ∨ (op = 0x4 ∧ (fn4 = 0x3 ∨ fn4 = 0x6))) ∧
  (0x8 ≤ op → op ≤ 0xC → v.hasS = true) ∧ (op = 0xD → v.hasM = true) ∧
  (v.hasH = true → (RdIsRegister op fn4 → (fieldRd w).val < 16) ∧ (Rs1IsRegister op fn4 → (fieldRs1 w).val < 16) ∧
    (Rs2IsRegister op → (fieldRs2 w).val < 16))

/-! ## Traps and returns -/

/-- The trap entry from User level (R414): into the Kernel handler. -/
def EntersKernel (cause ra : DWord) (s t : State) : Prop :=
  t.kra = ra ∧ t.kcause = cause ∧ t.kpriv = 0 ∧ t.pc = s.kiva ∧ mode t = .kernel ∧
  t.kstatus = s.kstatus ∧ t.kiva = s.kiva ∧ SameStatusButMode s t ∧ SameMachineCsrs s t ∧
  SameRegsBut [] s t ∧ SameMem s t ∧ SameOutside s t

/-- The trap entry from Kernel and Machine level (R411, R412): into the Machine handler, with `mpriv` as `saved`. -/
def EntersMachine (cause ra saved : DWord) (s t : State) : Prop :=
  t.mra = ra ∧ t.mcause = cause ∧ t.mpriv = saved ∧ t.pc = s.miva ∧ mode t = .machine ∧
  t.miva = s.miva ∧ SameStatusButMode s t ∧ SameKernelCsrs s t ∧
  SameRegsBut [] s t ∧ SameMem s t ∧ SameOutside s t

/-- A return (R420): IP and the mode, and nothing else. -/
def ReturnsTo (target : DWord) (m : PrivMode) (s t : State) : Prop :=
  t.pc = target ∧ mode t = m ∧ SameStatusButMode s t ∧ SameMachineCsrs s t ∧ SameKernelCsrs s t ∧
  SameRegsBut [] s t ∧ SameMem s t ∧ SameOutside s t

/-- R401: the instruction would put level 2 into the mode field. -/
def WouldReserveMode (i : Instr) (s : State) : Prop :=
  (i = .mret ∧ mode s = .machine ∧ s.mpriv.toNat % 4 = 2) ∨ (i = .sysret ∧ mode s ≠ .user ∧ s.kpriv.toNat % 4 = 2) ∨
  (mode s = .machine ∧
    ((∃ rs1, i = .csrw rs1 0 ∧ (readReg rs1 s).toNat / 2 % 4 = 2) ∨
      (∃ p : BitPos, i = .csrs 0 p ∧ p.toNat < 32 ∧ (s.mstatus ||| (1 : DWord) <<< p.toNat).toNat / 2 % 4 = 2) ∨
      (∃ p : BitPos, i = .csrc 0 p ∧ p.toNat < 32 ∧ (s.mstatus &&& ~~~((1 : DWord) <<< p.toNat)).toNat / 2 % 4 = 2)))

/-! ## CSRs by number (R31) -/

/-- The ten CSRs that are defined. -/
def definedCsrs : List CsrNum := [0x000, 0x001, 0x002, 0x003, 0x004, 0x800, 0x801, 0x802, 0x803, 0x804]

/-- From `s` to `t` CSR `k` got `v` (nothing, if no state stands behind the number), IP advanced by 4, and nothing else
changed. -/
def WritesCsr (k : CsrNum) (v : DWord) (s t : State) : Prop :=
  (k ∈ definedCsrs → csrStored k t = v) ∧ (∀ j ∈ definedCsrs, j ≠ k → csrStored j t = csrStored j s) ∧
  t.pc = s.pc + 4 ∧ SameRegsBut [] s t ∧ SameMem s t ∧ SameOutside s t

/-! ## What the next step does -/

/-- At the coming boundary no external interrupt is taken, and `t` is the state after it. -/
def QuietBoundary (s t : State) : Prop := boundary s = (t, none)

/-! ## What User code can see -/

/-- The two states agree on everything an instruction of User code can use: the registers, IP, memory, the Kernel's
handler address (where INT goes) and everything outside the core; they may differ in every other CSR. -/
def SameUserView (s t : State) : Prop :=
  (∀ r, readReg r t = readReg r s) ∧ t.pc = s.pc ∧ t.mem = s.mem ∧ t.storedTo = s.storedTo ∧ t.kiva = s.kiva ∧
  SameOutside s t

/-! ## The invariant -/

/-- What holds of every state a run reaches: the mode is a legal level (R401), slot 0 of the register file holds 0
(R21), memory and the record of stores are in canonical form, and no more requests are pending than the implementation
keeps (R415). -/
def StateInv (s : State) : Prop :=
  mode s ≠ .reserved ∧ s.regs[(0 : RegNum)] = 0 ∧ s.mem.wf = true ∧ addrsRise 0 s.storedTo = true ∧
  s.irqQueue.length ≤ MaskedIrq.capacity s.platform.maskedIrq

/-- `t` is reached from `s` by steps. -/
inductive Reaches : State → State → Prop where
  | refl (s : State) : Reaches s s
  | tail {s t u : State} (h : Reaches s t) (hs : step t = .next u) : Reaches s u

end Sys2Proof.Machine
end

