-- ==== Sys2Proof/Certificates/Slice0/Obligations.lean ====
section
/-! DEFINITION. The statements for the provers. Where one says how an instruction is encoded, the opcode and the fn4 are
those of its rule; the places of the fields are R91's (the spec's decision D2, log 28). -/

open Sys2Proof Sys2Proof.Machine

/-! ## Encoding -/

/-- R91, R101: the word the encoder writes decodes to the instruction it was written from, for every instruction and every
operand, as a word and as four big-endian bytes before any others. -/
def Obligations.DecodeOfEncode : Prop :=
  ∀ (i : Instr) (rest : List Byte),
    decodeWord (encode i) = .ok i ∧ decode (bytesOfWord (encode i) ++ rest) = .ok (i, rest)

/-- R103: a word that decodes is the encoding of its instruction in every bit but those of the unused fields. That the
decoder ignores those fields is the spec's decision D5 (log 19). -/
def Obligations.EncodeOfDecode : Prop := ∀ (w : DWord) (i : Instr), decodeWord w = .ok i → encode i = w &&& significantMask i

/-- R100, R101: the decoder and spec/opcode_table.json agree. A word that decodes matches its instruction's row; a word
that matches a row decodes to that row's instruction, except a word with fn7 ≠ 0 where fn7 must be 0. That fn7 is checked
where the table leaves it open is D4 (log 16). -/
def Obligations.DecoderAgreesWithOpcodeTable : Prop :=
  (∀ (w : DWord) (i : Instr), decodeWord w = .ok i → w &&& tableMask i = tableMatch i) ∧
  (∀ (w : DWord) (i : Instr), w &&& tableMask i = tableMatch i → (fn7MustBeZero w = true → fieldFn7 w = 0) →
    ∃ j, decodeWord w = .ok j ∧ tableMatch j = tableMatch i)

/-- R106 (the spec's decision D3, log 20) and R322 (D30, log 31): a fetched word in an unassigned cell, or of an instruction
the variant does not assign, is the fault illegalInstruction; a variant assigns the instructions of its opcodes, without
the SRM64 rows, and with H those that name r0 to r15 only. R102 (D4, log 16) and R105, R279 (D28, log 17): the two kinds of
words the model refuses, on a core that has their opcode (on a core with H whatever registers they name, log 36). -/
def Obligations.WordsThatAreNoInstruction : Prop :=
  (∀ (v : Variant) (w : DWord) (i : Instr), decodeWord w = .ok i → (i.assigned v = true ↔ AssignedOn v w)) ∧
  ∀ (s t : State) (w : DWord), QuietBoundary s t → fetch t = .ok w →
    (UnassignedCell (fieldOpcode w).toNat (fieldFn4 w).toNat (fieldFn7 w).toNat → step s = .fault .illegalInstruction) ∧
    (∀ i, decodeWord w = .ok i → i.assigned t.platform.variant = false → step s = .fault .illegalInstruction) ∧
    (fieldOpcode w = 0x0 → (fieldFn4 w).toNat ≤ 0x9 → fieldFn7 w ≠ 0 → step s = .refused .reservedFn7) ∧
    (fieldOpcode w = 0xD → (fieldFn4 w).toNat ≤ 0x7 → fieldFn7 w ≠ 0 →
      step s = if t.platform.variant.hasM then .refused .reservedFn7 else .fault .illegalInstruction) ∧
    (fieldOpcode w = 0xC → fieldFn4 w = 0x4 →
      step s = if t.platform.variant.hasS then .refused .printedOutFn4 else .fault .illegalInstruction)

/-- Words written out in spec/95_test_vectors.md and in the rules, one or more of every opcode (a sanity statement). The
fn4 of OUTD is the spec's decision D28 (log 18), the places of the fields D2 (log 28). -/
def Obligations.SpecWordsDecode : Prop :=
  decodeWord 0x00E80480 = .ok (.add 7 8 9) ∧ decodeWord 0x04E80FFF = .ok (.addi 7 8 (-1)) ∧
  decodeWord 0x08E12345 = .ok (.lui 7 0x12345) ∧ decodeWord 0x0FE804FD = .ok (.stb 9 8 (-3)) ∧
  decodeWord 0x10E82008 = .ok (.ldd 7 8 8) ∧ decodeWord 0x141FFFF8 = .ok (.jal 0 (-8)) ∧
  decodeWord 0x188D0010 = .ok (.jalr 4 13 16) ∧ decodeWord 0x1DE7547C = .ok (.jge 7 8 2044) ∧
  decodeWord 0x20000008 = .ok (.int 8) ∧ decodeWord 0x24001000 = .ok .sysret ∧ decodeWord 0x24003000 = .ok .mret ∧
  decodeWord 0x28070801 = .ok (.csrw 7 2049) ∧ decodeWord 0x28212000 = .ok (.csrs 0 33) ∧
  decodeWord 0x2CE81002 = .ok (.inw 7 8 2) ∧ decodeWord 0x30082484 = .ok (.outd 9 8 4) ∧
  decodeWord 0x35276400 = .ok (.mod 9 7 8)

/-! ## Step -/

/-- R12: at a boundary that takes no interrupt, with IP aligned, memory behind it and no stale byte, the step is `exec` of
the instruction the four bytes at IP decode to; the boundary itself changes the pending and coming interrupts only. The
byte order of the fetch is the spec's decision D9 (log 28); that an interrupt comes before the fetch D24 (log 29). -/
def Obligations.StepRunsTheDecodedInstruction : Prop :=
  ∀ (s t : State) (i : Instr), QuietBoundary s t → s.pc.extractLsb' 0 2 = 0 → mapped .dword s.pc s = true →
    (s.platform.fetch = .coherent ∨ fetchIsStale s = false) →
    decode [s.mem.read s.pc.toNat, s.mem.read (s.pc.toNat + 1), s.mem.read (s.pc.toNat + 2),
      s.mem.read (s.pc.toNat + 3)] = .ok (i, []) →
    i.assigned s.platform.variant = true →
    step s = exec i t ∧ t = { s with irqQueue := t.irqQueue, irqInput := t.irqInput }

/-- R453 and log 6: a word placed at IP is what the next step runs; and right after reset any instruction of SRM32SM is.
The reset half rests on Machine mode with external interrupts off (the spec's decision D13, log 3), on no request being
presented in a run from reset (the model's choice, log 9), on RAM at IP at reset (the model's choice, log 4) and on the
variant being SRM32SM (D1, log 31). -/
def Obligations.PlacedWordRuns : Prop :=
  (∀ (s t : State) (nbits w : Nat) (i : Instr), decodeTableWord nbits w = some i →
    QuietBoundary (s.withFetchWord nbits w) t → s.pc.extractLsb' 0 2 = 0 → mapped .dword s.pc s = true →
    s.mem.wf = true → i.assigned s.platform.variant = true → step (s.withFetchWord nbits w) = exec i t) ∧
  (∀ i : Instr, i.wellFormed = true →
    step (State.reset.withFetchWord 32 (encode i).toNat) = exec i (State.reset.withFetchWord 32 (encode i).toNat))

/-! ## Reset -/

/-- R26: IP is 0 after reset, and the first instruction executed is the word at byte addresses 0..3, whatever memory
holds. That no interrupt comes first is the spec's decision D13 (log 3, 9), the byte order of the fetch D9 (log 28). That
there is memory at 0 is the model's choice (log 4), that the variant is SRM32SM D1 (log 31). -/
def Obligations.ResetEntryPoint : Prop :=
  State.reset.pc = 0x00000000 ∧
  ∀ (m : Memory) (i : Instr), decode [m.read 0, m.read 1, m.read 2, m.read 3] = .ok (i, []) → i.wellFormed = true →
    step { State.reset with mem := m } = exec i { State.reset with mem := m }

/-- R49, R452 (the spec's decisions D13, D21 and D22; log 3, 14): Machine mode, external interrupts off at both gated
levels, none pending, `trapRaAdjust` = 0; and r0 reads 0. -/
def Obligations.ResetModeAndMasks : Prop :=
  mode State.reset = .machine ∧ State.reset.mstatus.getLsbD 0 = false ∧ State.reset.kstatus.getLsbD 0 = false ∧
  State.reset.irqQueue = [] ∧ State.reset.platform.trapRaAdjust = 0 ∧ readReg 0 State.reset = 0

/-- The invariant holds right after reset. It rests on Machine mode after reset (the spec's decision D13, log 3) and an
empty queue (D22, log 9). -/
def Obligations.ResetMeetsInv : Prop := StateInv State.reset

/-- Every step keeps the invariant: the mode stays a legal level, slot 0 stays 0, memory and the record of stores keep
their canonical form, no more requests are pending than are kept (R401, R21, R415; the canonical form is the model's).
That no step reaches level 2 rests on the fault of D19 (log 23), the bound on the queue on D22 (log 9). -/
def Obligations.StepKeepsInv : Prop := ∀ s t : State, StateInv s → step s = .next t → StateInv t

/-! ## Register arithmetic -/

/-- R121, R122: the sum and the difference, rs1 the minuend, modulo 2^32. -/
def Obligations.AddAndSub : Prop :=
  ∀ (rd rs1 rs2 : RegNum) (s : State),
    CompletesWith (.add rd rs1 rs2) rd (BitVec.ofNat 32 ((readReg rs1 s).toNat + (readReg rs2 s).toNat)) s ∧
    CompletesWith (.sub rd rs1 rs2) rd (BitVec.ofInt 32 ((readReg rs1 s).toNat - (readReg rs2 s).toNat : Int)) s ∧
    decodeWord (packDSS 0x0 (regField rd) (regField rs1) 0x0 (regField rs2) 0) = .ok (.add rd rs1 rs2) ∧
    decodeWord (packDSS 0x0 (regField rd) (regField rs1) 0x1 (regField rs2) 0) = .ok (.sub rd rs1 rs2)

/-- R123, R124: bit by bit. -/
def Obligations.AndAndOr : Prop :=
  ∀ (rd rs1 rs2 : RegNum) (s : State),
    (∃ v, CompletesWith (.and rd rs1 rs2) rd v s ∧
      ∀ k, v.getLsbD k = ((readReg rs1 s).getLsbD k && (readReg rs2 s).getLsbD k)) ∧
    (∃ v, CompletesWith (.or rd rs1 rs2) rd v s ∧
      ∀ k, v.getLsbD k = ((readReg rs1 s).getLsbD k || (readReg rs2 s).getLsbD k)) ∧
    decodeWord (packDSS 0x0 (regField rd) (regField rs1) 0x2 (regField rs2) 0) = .ok (.and rd rs1 rs2) ∧
    decodeWord (packDSS 0x0 (regField rd) (regField rs1) 0x3 (regField rs2) 0) = .ok (.or rd rs1 rs2)

/-- R125, R142, R166: XOR, ANDI and LDB, whose fn4 the spec recovers (R104, log 18): bit by bit, bits 31:12 of the
immediate being copies of bit 11; the byte zero-extended, where there is memory (R68). -/
def Obligations.XorAndiAndLdb : Prop :=
  ∀ (rd rs1 rs2 : RegNum) (imm : Imm12) (s : State),
    (∃ v, CompletesWith (.xor rd rs1 rs2) rd v s ∧
      ∀ k, v.getLsbD k = ((readReg rs1 s).getLsbD k ^^ (readReg rs2 s).getLsbD k)) ∧
    (∃ v, CompletesWith (.andi rd rs1 imm) rd v s ∧
      ∀ k, v.getLsbD k = ((readReg rs1 s).getLsbD k && imm.getLsbD (min k 11))) ∧
    (mapped .byte (accessAddr .byte rs1 imm s) s = true →
      CompletesWith (.ldb rd rs1 imm) rd (BitVec.ofNat 32 (s.mem.read (baseSum rs1 imm s)).toNat) s) ∧
    decodeWord (packDSS 0x0 (regField rd) (regField rs1) 0x4 (regField rs2) 0) = .ok (.xor rd rs1 rs2) ∧
    decodeWord (packDSI 0x1 (regField rd) (regField rs1) 0x2 imm) = .ok (.andi rd rs1 imm) ∧
    decodeWord (packDSI 0x4 (regField rd) (regField rs1) 0x0 imm) = .ok (.ldb rd rs1 imm)

/-- R126, R127, R128: exact for an amount in 0..31, the free value `Config.shiftAmountMode` otherwise (log 10). -/
def Obligations.RegisterShifts : Prop :=
  ∀ (rd rs1 rs2 : RegNum) (s : State),
    CompletesWith (.shr rd rs1 rs2) rd
      (if (readReg rs2 s).toNat ≤ 31 then BitVec.ofNat 32 ((readReg rs1 s).toNat / 2 ^ (readReg rs2 s).toNat)
        else Config.shiftAmountMode .shr (readReg rs1 s) (readReg rs2 s)) s ∧
    CompletesWith (.asr rd rs1 rs2) rd
      (if (readReg rs2 s).toNat ≤ 31 then BitVec.ofInt 32 ((readReg rs1 s).toInt / 2 ^ (readReg rs2 s).toNat)
        else Config.shiftAmountMode .asr (readReg rs1 s) (readReg rs2 s)) s ∧
    CompletesWith (.shl rd rs1 rs2) rd
      (if (readReg rs2 s).toNat ≤ 31 then BitVec.ofNat 32 ((readReg rs1 s).toNat * 2 ^ (readReg rs2 s).toNat)
        else Config.shiftAmountMode .shl (readReg rs1 s) (readReg rs2 s)) s ∧
    decodeWord (packDSS 0x0 (regField rd) (regField rs1) 0x5 (regField rs2) 0) = .ok (.shr rd rs1 rs2) ∧
    decodeWord (packDSS 0x0 (regField rd) (regField rs1) 0x6 (regField rs2) 0) = .ok (.asr rd rs1 rs2) ∧
    decodeWord (packDSS 0x0 (regField rd) (regField rs1) 0x7 (regField rs2) 0) = .ok (.shl rd rs1 rs2)

/-- R129, R130: bit 32 of the sum; 1 exactly when rs1 is below rs2, unsigned. -/
def Obligations.CarryAndBorrowChecks : Prop :=
  ∀ (rd rs1 rs2 : RegNum) (s : State),
    CompletesWith (.cch rd rs1 rs2) rd (BitVec.ofNat 32 (((readReg rs1 s).toNat + (readReg rs2 s).toNat) / 2 ^ 32)) s ∧
    CompletesWith (.bch rd rs1 rs2) rd (if (readReg rs1 s).toNat < (readReg rs2 s).toNat then 1 else 0) s ∧
    decodeWord (packDSS 0x0 (regField rd) (regField rs1) 0x8 (regField rs2) 0) = .ok (.cch rd rs1 rs2) ∧
    decodeWord (packDSS 0x0 (regField rd) (regField rs1) 0x9 (regField rs2) 0) = .ok (.bch rd rs1 rs2)

/-! ## Immediate arithmetic -/

/-- R141, R143, R144: the immediate is sign-extended, for the logical forms too. -/
def Obligations.AddiOriXori : Prop :=
  ∀ (rd rs1 : RegNum) (imm : Imm12) (s : State),
    CompletesWith (.addi rd rs1 imm) rd (BitVec.ofInt 32 ((readReg rs1 s).toNat + imm.toInt)) s ∧
    (∃ v, CompletesWith (.ori rd rs1 imm) rd v s ∧
      ∀ k < 32, v.getLsbD k = ((readReg rs1 s).getLsbD k || imm.getLsbD (min k 11))) ∧
    (∃ v, CompletesWith (.xori rd rs1 imm) rd v s ∧
      ∀ k < 32, v.getLsbD k = ((readReg rs1 s).getLsbD k ^^ imm.getLsbD (min k 11))) ∧
    decodeWord (packDSI 0x1 (regField rd) (regField rs1) 0x0 imm) = .ok (.addi rd rs1 imm) ∧
    decodeWord (packDSI 0x1 (regField rd) (regField rs1) 0x3 imm) = .ok (.ori rd rs1 imm) ∧
    decodeWord (packDSI 0x1 (regField rd) (regField rs1) 0x4 imm) = .ok (.xori rd rs1 imm)

/-- R146, R147, R148: exact for an immediate in 0..31, the free value of the sign-extended immediate otherwise (log 10). -/
def Obligations.ImmediateShifts : Prop :=
  ∀ (rd rs1 : RegNum) (imm : Imm12) (s : State),
    CompletesWith (.shri rd rs1 imm) rd
      (if imm.toNat ≤ 31 then BitVec.ofNat 32 ((readReg rs1 s).toNat / 2 ^ imm.toNat)
        else Config.shiftAmountMode .shr (readReg rs1 s) (BitVec.ofInt 32 imm.toInt)) s ∧
    CompletesWith (.asri rd rs1 imm) rd
      (if imm.toNat ≤ 31 then BitVec.ofInt 32 ((readReg rs1 s).toInt / 2 ^ imm.toNat)
        else Config.shiftAmountMode .asr (readReg rs1 s) (BitVec.ofInt 32 imm.toInt)) s ∧
    CompletesWith (.shli rd rs1 imm) rd
      (if imm.toNat ≤ 31 then BitVec.ofNat 32 ((readReg rs1 s).toNat * 2 ^ imm.toNat)
        else Config.shiftAmountMode .shl (readReg rs1 s) (BitVec.ofInt 32 imm.toInt)) s ∧
    decodeWord (packDSI 0x1 (regField rd) (regField rs1) 0x5 imm) = .ok (.shri rd rs1 imm) ∧
    decodeWord (packDSI 0x1 (regField rd) (regField rs1) 0x6 imm) = .ok (.asri rd rs1 imm) ∧
    decodeWord (packDSI 0x1 (regField rd) (regField rs1) 0x7 imm) = .ok (.shli rd rs1 imm)

/-- R149, R150, in the spec's 32-bit and unsigned readings of the sign-extended immediate; BCHI's fn4 is recovered
(R104, log 18). -/
def Obligations.ImmediateCarryAndBorrow : Prop :=
  ∀ (rd rs1 : RegNum) (imm : Imm12) (s : State),
    CompletesWith (.cchi rd rs1 imm) rd
      (BitVec.ofNat 32 (((readReg rs1 s).toNat + (BitVec.ofInt 32 imm.toInt).toNat) / 2 ^ 32)) s ∧
    CompletesWith (.bchi rd rs1 imm) rd
      (if (readReg rs1 s).toNat < (BitVec.ofInt 32 imm.toInt).toNat then 1 else 0) s ∧
    decodeWord (packDSI 0x1 (regField rd) (regField rs1) 0x8 imm) = .ok (.cchi rd rs1 imm) ∧
    decodeWord (packDSI 0x1 (regField rd) (regField rs1) 0x9 imm) = .ok (.bchi rd rs1 imm)

/-- R152: the 21 bits become bits 31:11, bits 10:0 become zero, and no register is read. -/
def Obligations.LoadUpperImmediate : Prop :=
  ∀ (rd : RegNum) (imm : Imm21) (s : State),
    CompletesWith (.lui rd imm) rd (BitVec.ofNat 32 (imm.toNat * 2 ^ 11)) s ∧
    decodeWord (packDI 0x2 (regField rd) imm) = .ok (.lui rd imm)

/-! ## Stores and loads -/

/-- R161, R162, R163: the address with its low bits dropped, the low bits of rs2 big endian, and nothing else, where there
is RAM (R68). -/
def Obligations.Stores : Prop :=
  ∀ (rs2 rs1 : RegNum) (imm : Imm12) (s : State), s.mem.wf = true →
    ((accessAddr .byte rs1 imm s).toNat = baseSum rs1 imm s ∧
      (writable .byte (accessAddr .byte rs1 imm s) s = true → ∃ t, exec (.stb rs2 rs1 imm) s = .next t ∧
        OnlyStores (footprint .byte (accessAddr .byte rs1 imm s).toNat) s t ∧
        t.mem.read (accessAddr .byte rs1 imm s).toNat = (readReg rs2 s).extractLsb' 0 8)) ∧
    ((accessAddr .word rs1 imm s).toNat = baseSum rs1 imm s / 2 * 2 ∧
      (writable .word (accessAddr .word rs1 imm s) s = true → ∃ t, exec (.stw rs2 rs1 imm) s = .next t ∧
        OnlyStores (footprint .word (accessAddr .word rs1 imm s).toNat) s t ∧
        t.mem.read (accessAddr .word rs1 imm s).toNat = (readReg rs2 s).extractLsb' 8 8 ∧
        t.mem.read ((accessAddr .word rs1 imm s).toNat + 1) = (readReg rs2 s).extractLsb' 0 8)) ∧
    ((accessAddr .dword rs1 imm s).toNat = baseSum rs1 imm s / 4 * 4 ∧
      (writable .dword (accessAddr .dword rs1 imm s) s = true → ∃ t, exec (.std rs2 rs1 imm) s = .next t ∧
        OnlyStores (footprint .dword (accessAddr .dword rs1 imm s).toNat) s t ∧
        t.mem.read (accessAddr .dword rs1 imm s).toNat = (readReg rs2 s).extractLsb' 24 8 ∧
        t.mem.read ((accessAddr .dword rs1 imm s).toNat + 1) = (readReg rs2 s).extractLsb' 16 8 ∧
        t.mem.read ((accessAddr .dword rs1 imm s).toNat + 2) = (readReg rs2 s).extractLsb' 8 8 ∧
        t.mem.read ((accessAddr .dword rs1 imm s).toNat + 3) = (readReg rs2 s).extractLsb' 0 8)) ∧
    decodeWord (packSSI 0x3 (regField rs1) 0x0 (regField rs2) imm) = .ok (.stb rs2 rs1 imm) ∧
    decodeWord (packSSI 0x3 (regField rs1) 0x1 (regField rs2) imm) = .ok (.stw rs2 rs1 imm) ∧
    decodeWord (packSSI 0x3 (regField rs1) 0x2 (regField rs2) imm) = .ok (.std rs2 rs1 imm)

/-- R167, R168, R169, R170: the byte sign-extended, the word zero- and sign-extended, the dword whole, each from the bytes
at the address with its low bits dropped, the most significant first, where there is memory (R68). -/
def Obligations.Loads : Prop :=
  ∀ (rd rs1 : RegNum) (imm : Imm12) (s : State),
    (mapped .byte (accessAddr .byte rs1 imm s) s = true →
      CompletesWith (.ldsb rd rs1 imm) rd (BitVec.ofInt 32 (s.mem.read (baseSum rs1 imm s)).toInt) s) ∧
    (mapped .word (accessAddr .word rs1 imm s) s = true →
      CompletesWith (.ldw rd rs1 imm) rd
        (BitVec.ofNat 32 ((s.mem.read (baseSum rs1 imm s / 2 * 2)).toNat * 2 ^ 8 +
          (s.mem.read (baseSum rs1 imm s / 2 * 2 + 1)).toNat)) s ∧
      CompletesWith (.ldsw rd rs1 imm) rd
        (BitVec.ofInt 32 ((s.mem.read (baseSum rs1 imm s / 2 * 2)).toInt * 2 ^ 8 +
          (s.mem.read (baseSum rs1 imm s / 2 * 2 + 1)).toNat)) s) ∧
    (mapped .dword (accessAddr .dword rs1 imm s) s = true →
      CompletesWith (.ldd rd rs1 imm) rd
        (BitVec.ofNat 32 ((s.mem.read (baseSum rs1 imm s / 4 * 4)).toNat * 2 ^ 24 +
          (s.mem.read (baseSum rs1 imm s / 4 * 4 + 1)).toNat * 2 ^ 16 +
          (s.mem.read (baseSum rs1 imm s / 4 * 4 + 2)).toNat * 2 ^ 8 +
          (s.mem.read (baseSum rs1 imm s / 4 * 4 + 3)).toNat)) s) ∧
    decodeWord (packDSI 0x4 (regField rd) (regField rs1) 0x4 imm) = .ok (.ldsb rd rs1 imm) ∧
    decodeWord (packDSI 0x4 (regField rd) (regField rs1) 0x1 imm) = .ok (.ldw rd rs1 imm) ∧
    decodeWord (packDSI 0x4 (regField rd) (regField rs1) 0x5 imm) = .ok (.ldsw rd rs1 imm) ∧
    decodeWord (packDSI 0x4 (regField rd) (regField rs1) 0x2 imm) = .ok (.ldd rd rs1 imm)

/-- R68, R278 (the spec leaves `MemMap` and `PortDev` open; log 4, 8): an access to an address with nothing behind it is a
fault, never a value; a store to an address with ROM behind it is a fault of its own (the model's choice, log 4). A load
or port input with rd = r0 makes its access and faults too: the spec's decision D35 (log 33). -/
def Obligations.NothingBehindTheAddress : Prop :=
  ∀ (i : Instr) (w : Width) (rs1 : RegNum) (imm : Imm12) (s : State),
    (i.memAccess = some (w, rs1, imm) → mapped w (accessAddr w rs1 imm s) s = false →
      exec i s = .fault .unmappedAddress) ∧
    (i.storeWidth = some (w, rs1, imm) → mapped w (accessAddr w rs1 imm s) s = true →
      writable w (accessAddr w rs1 imm s) s = false → exec i s = .fault .storeToRom) ∧
    (i.portAccess = some (w, rs1, imm) → mode s ≠ .user → portPresent (accessAddr w rs1 imm s) s = false →
      exec i s = .fault .noPortDevice)

/-- R172: after STD a load of the same place returns what was stored: the dword, its upper and lower word, and each of its
bytes counted from the most significant. -/
def Obligations.StoreThenLoad : Prop :=
  ∀ (rs2 rs1 rd : RegNum) (imm imm1 imm2 imm3 : Imm12) (s t : State), s.mem.wf = true →
    exec (.std rs2 rs1 imm) s = .next t →
    CompletesWith (.ldd rd rs1 imm) rd (readReg rs2 s) t ∧
    (baseSum rs1 imm s % 4 = 0 → baseSum rs1 imm1 s = baseSum rs1 imm s + 1 → baseSum rs1 imm2 s = baseSum rs1 imm s + 2 →
      baseSum rs1 imm3 s = baseSum rs1 imm s + 3 →
      CompletesWith (.ldw rd rs1 imm) rd (BitVec.ofNat 32 ((readReg rs2 s).toNat / 2 ^ 16)) t ∧
      CompletesWith (.ldw rd rs1 imm2) rd (BitVec.ofNat 32 ((readReg rs2 s).toNat % 2 ^ 16)) t ∧
      CompletesWith (.ldb rd rs1 imm) rd (BitVec.ofNat 32 ((readReg rs2 s).toNat / 2 ^ 24)) t ∧
      CompletesWith (.ldb rd rs1 imm1) rd (BitVec.ofNat 32 ((readReg rs2 s).toNat / 2 ^ 16 % 2 ^ 8)) t ∧
      CompletesWith (.ldb rd rs1 imm2) rd (BitVec.ofNat 32 ((readReg rs2 s).toNat / 2 ^ 8 % 2 ^ 8)) t ∧
      CompletesWith (.ldb rd rs1 imm3) rd (BitVec.ofNat 32 ((readReg rs2 s).toNat % 2 ^ 8)) t)

/-! ## Frames over all instructions -/

/-- R160, R165, R410: whatever the instruction, every byte outside the bytes a store covers reads as before, and only
those are recorded as stored to; a byte with no RAM behind it always reads as before (R68; that a store to ROM stops is
the model's choice, log 4). The record of stores is the model's means for D12 (log 13). -/
def Obligations.MemoryFrame : Prop :=
  ∀ (i : Instr) (s t : State), exec i s = .next t →
    (∀ a, (∀ w rs1 imm, i.storeWidth = some (w, rs1, imm) → a ∉ footprint w (accessAddr w rs1 imm s).toNat) →
      t.mem.read a = s.mem.read a ∧ (a ∈ t.storedTo ↔ a ∈ s.storedTo)) ∧
    (∀ a, ramAt a s = false → t.mem.read a = s.mem.read a) ∧
    (i.storeWidth = none → t.mem = s.mem ∧ t.storedTo = s.storedTo)

/-- R24, R25, R27: whatever the instruction, no register changes but its destination, r0 reads 0, and IP advances by 4
unless it is a jump, INT, MRET or SYSRET. -/
def Obligations.RegisterAndIpFrame : Prop :=
  ∀ (i : Instr) (s t : State), exec i s = .next t →
    (∀ r, i.dest ≠ some r → readReg r t = readReg r s) ∧ readReg 0 t = 0 ∧
    (i.setsIp = false → t.pc = s.pc + 4)

/-- R29, R30: no instruction but CSRW, CSRS, CSRC, INT, MRET and SYSRET changes any bit of any CSR; and none but the port
instructions reaches the port space. -/
def Obligations.CsrAndPortFrame : Prop :=
  ∀ (i : Instr) (s t : State), exec i s = .next t →
    (i.touchesCsrs = false → SameCsrs s t) ∧ (i.portAccess = none → t.portTrace = s.portTrace)

/-! ## Jumps -/

/-- R180, R181: the link IP+4, the target relative to IP or to rs1 as it was before the link was written. -/
def Obligations.JumpAndLink : Prop :=
  ∀ (rd rs1 : RegNum) (imm21 : Imm21) (imm : Imm12) (s : State),
    JumpsTo (.jal rd imm21) rd (BitVec.ofNat 32 (s.pc.toNat + 4)) (BitVec.ofInt 32 (s.pc.toNat + imm21.toInt)) s ∧
    JumpsTo (.jalr rd rs1 imm) rd (BitVec.ofNat 32 (s.pc.toNat + 4))
      (BitVec.ofInt 32 ((readReg rs1 s).toNat + imm.toInt)) s ∧
    decodeWord (packDI 0x5 (regField rd) imm21) = .ok (.jal rd imm21) ∧
    decodeWord (packDSI 0x6 (regField rd) (regField rs1) 0x0 imm) = .ok (.jalr rd rs1 imm)

/-- R183 to R188: taken to IP plus the signed offset exactly on the condition, else to IP+4; no register is written. -/
def Obligations.ConditionalJumps : Prop :=
  ∀ (rs1 rs2 : RegNum) (imm : Imm12) (s : State),
    OnlyMovesTo (.jeq rs1 rs2 imm) (if (readReg rs1 s).toNat = (readReg rs2 s).toNat
      then BitVec.ofInt 32 (s.pc.toNat + imm.toInt) else BitVec.ofNat 32 (s.pc.toNat + 4)) s ∧
    OnlyMovesTo (.jlt rs1 rs2 imm) (if (readReg rs1 s).toNat < (readReg rs2 s).toNat
      then BitVec.ofInt 32 (s.pc.toNat + imm.toInt) else BitVec.ofNat 32 (s.pc.toNat + 4)) s ∧
    OnlyMovesTo (.jslt rs1 rs2 imm) (if (readReg rs1 s).toInt < (readReg rs2 s).toInt
      then BitVec.ofInt 32 (s.pc.toNat + imm.toInt) else BitVec.ofNat 32 (s.pc.toNat + 4)) s ∧
    OnlyMovesTo (.jne rs1 rs2 imm) (if (readReg rs1 s).toNat ≠ (readReg rs2 s).toNat
      then BitVec.ofInt 32 (s.pc.toNat + imm.toInt) else BitVec.ofNat 32 (s.pc.toNat + 4)) s ∧
    OnlyMovesTo (.jge rs1 rs2 imm) (if (readReg rs1 s).toNat ≥ (readReg rs2 s).toNat
      then BitVec.ofInt 32 (s.pc.toNat + imm.toInt) else BitVec.ofNat 32 (s.pc.toNat + 4)) s ∧
    OnlyMovesTo (.jsge rs1 rs2 imm) (if (readReg rs1 s).toInt ≥ (readReg rs2 s).toInt
      then BitVec.ofInt 32 (s.pc.toNat + imm.toInt) else BitVec.ofNat 32 (s.pc.toNat + 4)) s ∧
    decodeWord (packSSI 0x7 (regField rs1) 0x0 (regField rs2) imm) = .ok (.jeq rs1 rs2 imm) ∧
    decodeWord (packSSI 0x7 (regField rs1) 0x1 (regField rs2) imm) = .ok (.jlt rs1 rs2 imm) ∧
    decodeWord (packSSI 0x7 (regField rs1) 0x2 (regField rs2) imm) = .ok (.jslt rs1 rs2 imm) ∧
    decodeWord (packSSI 0x7 (regField rs1) 0x4 (regField rs2) imm) = .ok (.jne rs1 rs2 imm) ∧
    decodeWord (packSSI 0x7 (regField rs1) 0x5 (regField rs2) imm) = .ok (.jge rs1 rs2 imm) ∧
    decodeWord (packSSI 0x7 (regField rs1) 0x6 (regField rs2) imm) = .ok (.jsge rs1 rs2 imm)

/-! ## Traps and returns -/

/-- R261 with R411, R412, R414: INT is always taken, whatever the enable bits; from User level to the Kernel handler, from
Kernel and Machine level to the Machine handler. The cause registers written (D20, log 15), the zero-extended cause (D34,
log 25) and the saved address (D21, log 14) are the spec's decisions; level 2 cannot occur (D19, log 23). That the enable
bits stay is D23 (log 29), that mpriv and kpriv are written whole D19 (log 23). -/
def Obligations.InterruptInstruction : Prop :=
  ∀ (imm : Imm21) (s : State),
    (mode s = .user → ∃ t, exec (.int imm) s = .next t ∧
      EntersKernel (BitVec.ofNat 32 (imm.toNat / 4 * 4)) (s.pc + s.platform.trapRaAdjust) s t) ∧
    (mode s = .kernel → ∃ t, exec (.int imm) s = .next t ∧
      EntersMachine (BitVec.ofNat 32 (imm.toNat / 4 * 4)) (s.pc + s.platform.trapRaAdjust) 1 s t) ∧
    (mode s = .machine → ∃ t, exec (.int imm) s = .next t ∧
      EntersMachine (BitVec.ofNat 32 (imm.toNat / 4 * 4)) (s.pc + s.platform.trapRaAdjust) s.mpriv s t) ∧
    (mode s = .reserved → exec (.int imm) s = .fault .reservedPrivilege)

/-- R262: in Machine mode IP comes from `mra` and the mode from `mpriv[1:0]`, and nothing else changes (D23, log 29). Only
bits 1:0 of `mpriv` count, and level 2 is a fault, by D19 (log 23). -/
def Obligations.MachineReturn : Prop :=
  ∀ s : State, mode s = .machine →
    (∀ m : PrivMode, m ≠ .reserved → s.mpriv.toNat % 4 = m.level → ∃ t, exec .mret s = .next t ∧ ReturnsTo s.mra m s t) ∧
    (s.mpriv.toNat % 4 = 2 → exec .mret s = .fault .reservedPrivilege)

/-- R263: from level 1 on IP comes from `kra` and the mode from `kpriv[1:0]`, with no check that this is not higher than
the current one, and nothing else changes (D23, log 29). Only bits 1:0 of `kpriv` count, and level 2 is a fault, by D19
(log 23). -/
def Obligations.SystemReturn : Prop :=
  ∀ s : State, mode s ≠ .user →
    (∀ m : PrivMode, m ≠ .reserved → s.kpriv.toNat % 4 = m.level →
      ∃ t, exec .sysret s = .next t ∧ ReturnsTo s.kra m s t) ∧
    (s.kpriv.toNat % 4 = 2 → exec .sysret s = .fault .reservedPrivilege)

/-- R420, R421, R422: the return that belongs to the handling level undoes a trap from User or Kernel level; it comes back
to the INT itself (plus `trapRaAdjust`), in the same mode, with every register and byte as they were. That `mstatus` and
`kstatus` come back with their enable bits rests on the spec's decision D23 (log 29), the saved address on D21 (log 14),
the mode that comes back on D19 (bits 1:0, log 23). A trap from Machine level is not covered. -/
def Obligations.ReturnUndoesTrap : Prop :=
  ∀ (imm : Imm21) (s t : State), exec (.int imm) s = .next t →
    (mode s = .user → ∃ u, exec .sysret t = .next u ∧ u.pc = s.pc + s.platform.trapRaAdjust ∧ u.mstatus = s.mstatus ∧
      SameMachineCsrs s u ∧ u.kstatus = s.kstatus ∧ u.kiva = s.kiva ∧ SameRegsBut [] s u ∧ SameMem s u ∧ SameOutside s u) ∧
    (mode s = .kernel → ∃ u, exec .mret t = .next u ∧ u.pc = s.pc + s.platform.trapRaAdjust ∧ u.mstatus = s.mstatus ∧
      SameKernelCsrs s u ∧ u.miva = s.miva ∧ SameRegsBut [] s u ∧ SameMem s u ∧ SameOutside s u)

/-! ## CSR access -/

/-- R31 with R32, R265 (the spec's reading D14, log 24): the ten CSRs and the numbers they stand at, and which numbers each
level reaches. -/
def Obligations.CsrMap : Prop :=
  ∀ (k : CsrNum) (s : State),
    (mode s = .user → (csrAllowed k s = true ↔ 3072 ≤ k.toNat)) ∧
    (mode s = .kernel → (csrAllowed k s = true ↔ 2048 ≤ k.toNat)) ∧
    (mode s = .machine → (csrAllowed k s = true ↔ k.toNat < 1024 ∨ 2048 ≤ k.toNat)) ∧
    csrStored 0 s = s.mstatus ∧ csrStored 1 s = s.miva ∧ csrStored 2 s = s.mra ∧ csrStored 3 s = s.mcause ∧
    csrStored 4 s = s.mpriv ∧ csrStored 2048 s = s.kstatus ∧ csrStored 2049 s = s.kiva ∧ csrStored 2050 s = s.kra ∧
    csrStored 2051 s = s.kcause ∧ csrStored 2052 s = s.kpriv

/-- R266 with R265 and R43: a permitted write puts the whole register into that CSR alone (into none, for a reserved
number), a refused one only advances IP. A write of level 2 into the mode field is not covered (D19, log 23). That the
reserved bits of `mstatus` and `kstatus` hold what was written and that a reserved number takes nothing is the model's
reading of D16 and D19 (R33, R38, R43; log 12); that the write reaches the live mode field is D18, who reaches which
number D14 (log 24). -/
def Obligations.CsrWrite : Prop :=
  ∀ (rs1 : RegNum) (k : CsrNum) (s : State),
    (csrAllowed k s = true → (k = 0 → (readReg rs1 s).toNat / 2 % 4 ≠ 2) →
      ∃ t, exec (.csrw rs1 k) s = .next t ∧ WritesCsr k (readReg rs1 s) s t) ∧
    (csrAllowed k s = false → OnlyMovesTo (.csrw rs1 k) (s.pc + 4) s)

/-- R267 with R33, R38 and R43: a refused read gives 0; a permitted one the CSR, of the two status registers the defined
bits, the reserved bits and reserved numbers being free values (log 12); the draw is counted and nothing else changes. Who
reaches which number is D14 (log 24), the free values D16 and D19. -/
def Obligations.CsrRead : Prop :=
  ∀ (rd : RegNum) (k : CsrNum) (s : State), ∃ t v,
    exec (.csrr rd k) s = .next t ∧ readReg rd t = (if rd = 0 then 0 else v) ∧
    (csrAllowed k s = false → v = 0) ∧
    (csrAllowed k s = true → k = 0 → ∀ b < 3, v.getLsbD b = s.mstatus.getLsbD b) ∧
    (csrAllowed k s = true → k = 2048 → v.getLsbD 0 = s.kstatus.getLsbD 0) ∧
    (csrAllowed k s = true → k ∈ definedCsrs → k ≠ 0 → k ≠ 2048 → v = csrStored k s) ∧
    t.pc = s.pc + 4 ∧ SameRegsBut [rd] s t ∧ SameCsrs s t ∧ SameMem s t ∧ t.portTrace = s.portTrace ∧ SameIrqs s t ∧
    t.freeDraws = s.freeDraws + 1

/-- R268, R269 (with the spec's decision D17, log 24): one bit set or cleared and the others kept; a position of 32 or
more, or a refused CSR, only advances IP. Who reaches which number is D14, that the mode field is live D18 (both log 24);
that the reserved bits of `mstatus` and `kstatus` keep what was written, and a reserved number takes nothing, is log 12
(D16, D19); a result with level 2 in the mode field is not covered (D19, log 23). -/
def Obligations.CsrBitSetAndClear : Prop :=
  ∀ (k : CsrNum) (pos : BitPos) (s : State),
    (csrAllowed k s = true → pos.toNat < 32 →
      (∀ v : DWord, (∀ b < 32, v.getLsbD b = (decide (b = pos.toNat) || (csrStored k s).getLsbD b)) →
        (k = 0 → v.toNat / 2 % 4 ≠ 2) → ∃ t, exec (.csrs k pos) s = .next t ∧ WritesCsr k v s t) ∧
      (∀ v : DWord, (∀ b < 32, v.getLsbD b = (decide (b ≠ pos.toNat) && (csrStored k s).getLsbD b)) →
        (k = 0 → v.toNat / 2 % 4 ≠ 2) → ∃ t, exec (.csrc k pos) s = .next t ∧ WritesCsr k v s t)) ∧
    (csrAllowed k s = false ∨ 32 ≤ pos.toNat →
      OnlyMovesTo (.csrs k pos) (s.pc + 4) s ∧ OnlyMovesTo (.csrc k pos) (s.pc + 4) s)

/-- R401 (the spec's decision D19, log 23): a step that would put level 2 into the mode field is a fault; writing 2 into
`mpriv` or `kpriv` is not. That the mode field is live and writable is D18 (log 24). -/
def Obligations.ReservedLevelFaults : Prop :=
  ∀ (rs1 : RegNum) (s : State), mode s = .machine →
    ((readReg rs1 s).toNat / 2 % 4 = 2 → exec (.csrw rs1 0) s = .fault .reservedPrivilege) ∧
    exec (.csrc 0 1) s = .fault .reservedPrivilege ∧
    (∀ p : BitPos, ∃ t, exec (.csrs 0 p) s = .next t ∧ mode t = .machine) ∧
    (∃ t, exec (.csrw rs1 4) s = .next t ∧ t.mpriv = readReg rs1 s) ∧
    (∃ t, exec (.csrw rs1 2052) s = .next t ∧ t.kpriv = readReg rs1 s)

/-! ## Ports -/

/-- R270 to R274 (fn4 of INSW D28, log 18; padding D29, log 27): from level 1 on, one read transaction at the address with
its low bits dropped, whose answer is a free value of the history of the port space (log 7), extended as the entry says.
With rd = r0 the read transaction is made all the same, which is the spec's decision D35 (log 33); which addresses have a
device is log 8. -/
def Obligations.PortInput : Prop :=
  ∀ (rd rs1 : RegNum) (imm : Imm12) (s : State), mode s ≠ .user →
    (portPresent (accessAddr .byte rs1 imm s) s = true →
      (∃ t, exec (.inb rd rs1 imm) s = .next t ∧ Transacts (.read (BitVec.ofNat 32 (baseSum rs1 imm s)) .byte) rd
        (BitVec.ofNat 32 ((Config.portAnswer s.portTrace (BitVec.ofNat 32 (baseSum rs1 imm s)) .byte).toNat % 2 ^ 8)) s t) ∧
      (∃ t, exec (.insb rd rs1 imm) s = .next t ∧ Transacts (.read (BitVec.ofNat 32 (baseSum rs1 imm s)) .byte) rd
        (BitVec.ofInt 32
          ((Config.portAnswer s.portTrace (BitVec.ofNat 32 (baseSum rs1 imm s)) .byte).setWidth 8).toInt) s t)) ∧
    (portPresent (accessAddr .word rs1 imm s) s = true →
      (∃ t, exec (.inw rd rs1 imm) s = .next t ∧ Transacts (.read (BitVec.ofNat 32 (baseSum rs1 imm s / 2 * 2)) .word) rd
        (BitVec.ofNat 32
          ((Config.portAnswer s.portTrace (BitVec.ofNat 32 (baseSum rs1 imm s / 2 * 2)) .word).toNat % 2 ^ 16)) s t) ∧
      (∃ t, exec (.insw rd rs1 imm) s = .next t ∧ Transacts (.read (BitVec.ofNat 32 (baseSum rs1 imm s / 2 * 2)) .word) rd
        (BitVec.ofInt 32
          ((Config.portAnswer s.portTrace (BitVec.ofNat 32 (baseSum rs1 imm s / 2 * 2)) .word).setWidth 16).toInt) s t)) ∧
    (portPresent (accessAddr .dword rs1 imm s) s = true →
      ∃ t, exec (.ind rd rs1 imm) s = .next t ∧ Transacts (.read (BitVec.ofNat 32 (baseSum rs1 imm s / 4 * 4)) .dword) rd
        (Config.portAnswer s.portTrace (BitVec.ofNat 32 (baseSum rs1 imm s / 4 * 4)) .dword) s t)

/-- R275 to R277 (fn4 D28, log 18; padding D29, log 27): from level 1 on, one write transaction of the low bits of rs2 at
the address with its low bits dropped; no register is written. The transaction is recorded and nothing more (D27, log 7);
which addresses have a device is log 8. -/
def Obligations.PortOutput : Prop :=
  ∀ (rs2 rs1 : RegNum) (imm : Imm12) (s : State), mode s ≠ .user →
    (portPresent (accessAddr .byte rs1 imm s) s = true → ∃ t, exec (.outb rs2 rs1 imm) s = .next t ∧
      Transacts (.write (BitVec.ofNat 32 (baseSum rs1 imm s)) .byte (BitVec.ofNat 32 ((readReg rs2 s).toNat % 2 ^ 8)))
        0 0 s t) ∧
    (portPresent (accessAddr .word rs1 imm s) s = true → ∃ t, exec (.outw rs2 rs1 imm) s = .next t ∧
      Transacts (.write (BitVec.ofNat 32 (baseSum rs1 imm s / 2 * 2)) .word
        (BitVec.ofNat 32 ((readReg rs2 s).toNat % 2 ^ 16))) 0 0 s t) ∧
    (portPresent (accessAddr .dword rs1 imm s) s = true → ∃ t, exec (.outd rs2 rs1 imm) s = .next t ∧
      Transacts (.write (BitVec.ofNat 32 (baseSum rs1 imm s / 4 * 4)) .dword (readReg rs2 s)) 0 0 s t)

/-- R260 (the spec's decision D15, log 22): below its level an instruction performs none of its effects. -/
def Obligations.PrivilegeViolations : Prop :=
  ∀ (i : Instr) (s : State),
    (mode s = .user → i.portAccess.isSome = true → exec i s = .fault .privilegeViolation) ∧
    (mode s = .user → exec .sysret s = .fault .privilegeViolation) ∧
    (mode s ≠ .machine → exec .mret s = .fault .privilegeViolation)

/-! ## Multiply and divide -/

/-- R341 to R344: the low and high halves of the unsigned and of the signed product, in rd (the spec's decision D40,
log 26). -/
def Obligations.Products : Prop :=
  ∀ (rd rs1 rs2 : RegNum) (s : State),
    CompletesWith (.mul rd rs1 rs2) rd (BitVec.ofNat 32 ((readReg rs1 s).toNat * (readReg rs2 s).toNat)) s ∧
    CompletesWith (.smul rd rs1 rs2) rd (BitVec.ofInt 32 ((readReg rs1 s).toInt * (readReg rs2 s).toInt)) s ∧
    CompletesWith (.mulh rd rs1 rs2) rd (BitVec.ofNat 32 ((readReg rs1 s).toNat * (readReg rs2 s).toNat / 2 ^ 32)) s ∧
    CompletesWith (.smulh rd rs1 rs2) rd (BitVec.ofInt 32 ((readReg rs1 s).toInt * (readReg rs2 s).toInt / 2 ^ 32)) s

/-- R352: MULH above MUL is the exact unsigned product, SMULH above SMUL the exact signed one. That both operands of SMULH
are signed, and that the results go to rd, is the spec's decision D40 (log 26). -/
def Obligations.ExactProducts : Prop :=
  ∀ (rd rs1 rs2 : RegNum) (s : State), rd ≠ 0 → ∃ t1 t2 t3 t4,
    exec (.mulh rd rs1 rs2) s = .next t1 ∧ exec (.mul rd rs1 rs2) s = .next t2 ∧
    exec (.smulh rd rs1 rs2) s = .next t3 ∧ exec (.smul rd rs1 rs2) s = .next t4 ∧
    (readReg rd t1).toNat * 2 ^ 32 + (readReg rd t2).toNat = (readReg rs1 s).toNat * (readReg rs2 s).toNat ∧
    (readReg rd t3).toInt * 2 ^ 32 + (readReg rd t4).toNat = (readReg rs1 s).toInt * (readReg rs2 s).toInt

/-- R345 to R348 with R350, R351, in rd (D40, log 26): floor and remainder; the truncated quotient and the remainder of the
dividend's sign (truncation is the spec's decision D26, log 26; SDIV's fn4 is recovered, log 18). By zero, and for the
least number by -1 signed, the free value `Config.divResult` (log 11). -/
def Obligations.Division : Prop :=
  ∀ (rd rs1 rs2 : RegNum) (s : State),
    CompletesWith (.div rd rs1 rs2) rd (if readReg rs2 s = 0 then Config.divResult .div (readReg rs1 s) 0
      else BitVec.ofNat 32 ((readReg rs1 s).toNat / (readReg rs2 s).toNat)) s ∧
    CompletesWith (.mod rd rs1 rs2) rd (if readReg rs2 s = 0 then Config.divResult .mod (readReg rs1 s) 0
      else BitVec.ofNat 32 ((readReg rs1 s).toNat % (readReg rs2 s).toNat)) s ∧
    CompletesWith (.sdiv rd rs1 rs2) rd
      (if (readReg rs2 s).toInt = 0 ∨ ((readReg rs1 s).toInt = -2 ^ 31 ∧ (readReg rs2 s).toInt = -1)
        then Config.divResult .sdiv (readReg rs1 s) (readReg rs2 s)
        else BitVec.ofInt 32 ((readReg rs1 s).toInt.tdiv (readReg rs2 s).toInt)) s ∧
    CompletesWith (.smod rd rs1 rs2) rd
      (if (readReg rs2 s).toInt = 0 ∨ ((readReg rs1 s).toInt = -2 ^ 31 ∧ (readReg rs2 s).toInt = -1)
        then Config.divResult .smod (readReg rs1 s) (readReg rs2 s)
        else BitVec.ofInt 32 ((readReg rs1 s).toInt.tmod (readReg rs2 s).toInt)) s

/-- R352, R351: wherever the results are defined, quotient times divisor plus remainder is the dividend, and the remainder
is smaller than the divisor and not of the opposite sign to the dividend. That SDIV truncates and SMOD takes the dividend's
sign is the spec's decision D26, from general knowledge (G1), and that the results go to rd D40 (log 26). -/
def Obligations.DivisionLaw : Prop :=
  ∀ (rd rs1 rs2 : RegNum) (s : State), rd ≠ 0 → readReg rs2 s ≠ 0 → ∃ t1 t2 t3 t4,
    exec (.div rd rs1 rs2) s = .next t1 ∧ exec (.mod rd rs1 rs2) s = .next t2 ∧
    exec (.sdiv rd rs1 rs2) s = .next t3 ∧ exec (.smod rd rs1 rs2) s = .next t4 ∧
    (readReg rd t1).toNat * (readReg rs2 s).toNat + (readReg rd t2).toNat = (readReg rs1 s).toNat ∧
    (readReg rd t2).toNat < (readReg rs2 s).toNat ∧
    (¬((readReg rs1 s).toInt = -2 ^ 31 ∧ (readReg rs2 s).toInt = -1) →
      (readReg rd t3).toInt * (readReg rs2 s).toInt + (readReg rd t4).toInt = (readReg rs1 s).toInt ∧
      (readReg rd t4).toInt.natAbs < (readReg rs2 s).toInt.natAbs ∧
      0 ≤ (readReg rd t4).toInt * (readReg rs1 s).toInt)

/-! ## External interrupts -/

/-- R415 with R411, R412, R414 (the spec's decisions D20, D22, D24; log 9, 15, 29): the request at the head of those
pending is taken before the fetch, always at User level, on `kstatus[0]` at Kernel level, on `mstatus[0]` at Machine
level; IP, the address of the instruction not yet run, is what is saved. That the enable bits stay is D23 (log 29), that
mpriv and kpriv are written whole D19 (log 23). -/
def Obligations.ExternalInterruptTaken : Prop :=
  ∀ (s : State) (c : DWord) (rest : List DWord), pendingIrqs s = c :: rest →
    (mode s = .user → ∃ t, step s = .next t ∧ EntersKernel c s.pc (afterBoundary rest s) t) ∧
    (mode s = .kernel → s.kstatus.getLsbD 0 = true →
      ∃ t, step s = .next t ∧ EntersMachine c s.pc 1 (afterBoundary rest s) t) ∧
    (mode s = .machine → s.mstatus.getLsbD 0 = true →
      ∃ t, step s = .next t ∧ EntersMachine c s.pc s.mpriv (afterBoundary rest s) t)

/-- R415 (the spec's decisions D22, D24; log 9): with the enable bit of the level 0 a request is not taken and the
instruction at IP runs; "drop" keeps none, "queue" as many as it is deep; what is looked at is the queue and the request
presented now. -/
def Obligations.MaskedInterruptWaits : Prop :=
  (∀ s : State, (mode s = .kernel ∧ s.kstatus.getLsbD 0 = false) ∨ (mode s = .machine ∧ s.mstatus.getLsbD 0 = false) →
    ∃ t, QuietBoundary s t ∧ step s = runInstruction t ∧
      t = { s with irqQueue := t.irqQueue, irqInput := s.irqInput.tail } ∧
      (s.platform.maskedIrq = .drop → t.irqQueue = []) ∧
      (∀ depth, s.platform.maskedIrq = .queue depth → t.irqQueue = (pendingIrqs s).take depth)) ∧
  (∀ (s : State) (c : DWord), c ∈ pendingIrqs s ↔
    c ∈ s.irqQueue ∨ ∃ slot, s.irqInput.head? = some (some { cause := c, slot := slot }))

/-! ## Fetch -/

/-- R66 (D7, log 21), R80 (D12, log 13), R68 (D10, log 4): what stops a step before an instruction is decoded. -/
def Obligations.FetchFaults : Prop :=
  ∀ s t : State, QuietBoundary s t →
    (s.pc.toNat % 4 ≠ 0 → step s = .fault .misalignedFetch) ∧
    (s.pc.toNat % 4 = 0 → s.platform.fetch = .faultOnStale →
      (∃ a ∈ s.storedTo, s.pc.toNat ≤ a ∧ a < s.pc.toNat + 4) → step s = .fault .staleFetch) ∧
    (s.pc.toNat % 4 = 0 → (s.platform.fetch = .coherent ∨ ∀ a ∈ s.storedTo, a < s.pc.toNat ∨ s.pc.toNat + 4 ≤ a) →
      mapped .dword s.pc s = false → step s = .fault .unmappedAddress)

/-- R80, R75 (fetchCoherence as recommended, D12, log 13): while stale fetches fault the program text is fixed: every word
ever fetched is the word memory held there when the run began. -/
def Obligations.ProgramTextIsFixed : Prop :=
  ∀ (s t : State) (w : DWord), Reaches s t → s.platform.fetch = .faultOnStale → fetch t = .ok w →
    w = s.mem.readBE .dword t.pc.toNat

/-! ## Privilege, whole machine -/

/-- R402: privilege rises only through a trap, or through SYSRET with a `kpriv` that was raised before. It rests on the
privilege checks of the spec's decisions D14 and D17 and on the one copy of the mode, D18 (log 24), on SYSRET and MRET
below their level being faults, D15 (log 22), and on D19 (log 23) for level 2 and for what entry writes to `kpriv` and
`mpriv`. -/
def Obligations.PrivilegeRisesOnlyByTrapOrSysret : Prop :=
  ∀ s t : State, mode s ≠ .reserved → step s = .next t → (mode s).level < (mode t).level →
    (mode s = .user ∧ mode t = .kernel ∧ t.pc = s.kiva ∧ t.kpriv = 0) ∨
    (mode s = .kernel ∧ mode t = .machine ∧ t.pc = s.miva ∧ t.mpriv = 1) ∨
    (mode s = .kernel ∧ s.kpriv.toNat % 4 = (mode t).level ∧ t.pc = s.kra ∧ t.kpriv = s.kpriv)

/-- R400, R402, R403: a step at User level either enters the Kernel handler or leaves every CSR, and with it the mode, as
it was; either way no Machine CSR, handler address, enable bit or port is touched. It rests on choices of the spec: CSRS
and CSRC check the privilege as CSRW does (R268, R269, D17, log 24), CSRs 1024 to 2047 are nobody's (R32, R265, D14, log
24), and SYSRET, MRET and port instructions at User level are faults (D15, log 22). That entry leaves the enable bits is
D23 (log 29), that it writes the whole of `kpriv` D19 (log 23). -/
def Obligations.UserStepIsConfined : Prop :=
  ∀ s t : State, mode s = .user → step s = .next t →
    SameMachineCsrs s t ∧ SameStatusButMode s t ∧ t.kiva = s.kiva ∧ t.kstatus = s.kstatus ∧ t.portTrace = s.portTrace ∧
    ((mode t = .kernel ∧ t.pc = s.kiva ∧ t.kpriv = 0) ∨ SameCsrs s t)

/-- R402, R403, R263: a step at Kernel level leaves the Machine CSRs and the Machine enable bit as they were, but by a
trap into the Machine handler; and it leaves Kernel level only by that trap or by SYSRET, which goes to the level `kpriv`
names, Machine level with it (the source puts no check there, R263, U28). It rests on the spec's decisions D14 and D17 for
the privilege of the CSR writes (log 24) and D15 for MRET (log 22). That entry and SYSRET leave the enable bits is D23
(log 29), that entry writes the whole of `mpriv`, and SYSRET uses bits 1:0 of `kpriv`, D19 (log 23). -/
def Obligations.KernelStepIsConfined : Prop :=
  ∀ s t : State, mode s = .kernel → step s = .next t →
    t.miva = s.miva ∧ SameStatusButMode s t ∧
    ((mode t = .machine ∧ t.pc = s.miva ∧ t.mpriv = 1) ∨
      (SameMachineCsrs s t ∧
        (mode t = .kernel ∨ ((mode t).level = s.kpriv.toNat % 4 ∧ t.pc = s.kra ∧ SameKernelCsrs s t))))

/-- R400, R32: what an instruction does at User level does not depend on the CSRs User code may not read, INT's handler
address aside: from two states that differ in those alone it does the same. `kiva` is a CSR User code may not read, and it
is held equal, since INT goes there. The two runs get the same free values: of a shift amount outside 0..31 (log 10) and
of a division without a result (log 11) they are functions of the operands, of a reserved CSR (log 12) of its number and
the count of reads, which is held equal. It rests on the spec's decisions D14 and D17 (log 24) and D15 (log 22) for the
privilege checks. -/
def Obligations.UserCannotReadSystemState : Prop :=
  ∀ (i : Instr) (s1 s2 t1 : State), mode s1 = .user → mode s2 = .user → SameUserView s1 s2 → exec i s1 = .next t1 →
    ∃ t2, exec i s2 = .next t2 ∧ SameUserView t1 t2

/-! ## Completion and stops, all instructions -/

/-- R400, R406, R120, R165: at every level a base or M instruction completes, reads and writes no CSR and no port; a load
where there is memory, a store where there is RAM (R68). That shifts by any amount and divisions by 0 complete is D6 and
D25 (log 10, 11), that a jump to any address does D7 (log 21). -/
def Obligations.BaseInstructionsAlwaysComplete : Prop :=
  ∀ (i : Instr) (s : State), i.extension = .base ∨ i.extension = .m →
    (∀ w rs1 imm, i.memAccess = some (w, rs1, imm) → mapped w (accessAddr w rs1 imm s) s = true) →
    (∀ w rs1 imm, i.storeWidth = some (w, rs1, imm) → writable w (accessAddr w rs1 imm s) s = true) →
    ∃ t, exec i s = .next t ∧ SameCsrs s t ∧ SameOutside s t

/-- R406, R423: no instruction is refused, and every fault an instruction itself can meet, with the condition it stands
for; the spec's decisions D10 (R68, log 4), D15 (R260, log 22) and D19 (R401, log 23) among them, and for a store to ROM
the model's choice (log 4). That the SRM64 rows are illegal is D31 (log 30), that a port with no device is a fault the
model's reading of R278 (log 8). -/
def Obligations.WhatStopsAnInstruction : Prop :=
  (∀ (i : Instr) (s : State) (r : Refusal), exec i s ≠ .refused r) ∧
  (∀ (i : Instr) (s : State) (f : Fault), exec i s = .fault f →
    (f = .illegalInstruction ∧ i.extension = .srm64) ∨
    (f = .unmappedAddress ∧ ∃ w rs1 imm, i.memAccess = some (w, rs1, imm) ∧
      mapped w (accessAddr w rs1 imm s) s = false) ∨
    (f = .storeToRom ∧ ∃ w rs1 imm, i.storeWidth = some (w, rs1, imm) ∧
      mapped w (accessAddr w rs1 imm s) s = true ∧ writable w (accessAddr w rs1 imm s) s = false) ∨
    (f = .noPortDevice ∧ mode s ≠ .user ∧ ∃ w rs1 imm, i.portAccess = some (w, rs1, imm) ∧
      portPresent (accessAddr w rs1 imm s) s = false) ∨
    (f = .privilegeViolation ∧ ((mode s = .user ∧ (i.portAccess.isSome = true ∨ i = .sysret)) ∨
      (mode s ≠ .machine ∧ i = .mret))) ∨
    (f = .reservedPrivilege ∧ (((∃ imm, i = .int imm) ∧ mode s = .reserved) ∨ WouldReserveMode i s)))

/-- R164, R171, R302 to R304: STQ, LDQ and LDSD are illegal on SRM32, on every variant this model has. That no variant of
the model has SRM64 is the spec's decision D31 (log 30). -/
def Obligations.Srm64RowsAreIllegal : Prop :=
  ∀ (r rs1 : RegNum) (imm : Imm12) (s : State) (v : Variant),
    exec (.stq r rs1 imm) s = .fault .illegalInstruction ∧ exec (.ldq r rs1 imm) s = .fault .illegalInstruction ∧
    exec (.ldsd r rs1 imm) s = .fault .illegalInstruction ∧ Instr.assigned v (.stq r rs1 imm) = false ∧
    Instr.assigned v (.ldq r rs1 imm) = false ∧ Instr.assigned v (.ldsd r rs1 imm) = false

/-! ## The assembler's mnemonics -/

/-- R201 to R205, R208 to R210, R214, R220: the one-instruction mnemonics that compute, and the instruction each is. -/
def Obligations.PseudoArithmetic : Prop :=
  ∀ (rd rs1 rs2 : RegNum) (imm : Imm12) (s : State),
    (expandPseudo .nop = .add 0 0 0 ∧ encode (expandPseudo .nop) = 0x00000000 ∧ OnlyMovesTo (expandPseudo .nop) (s.pc + 4) s) ∧
    (expandPseudo (.not rd rs1) = .xori rd rs1 (-1) ∧ CompletesWith (expandPseudo (.not rd rs1)) rd (~~~(readReg rs1 s)) s) ∧
    (expandPseudo (.inc rd rs1) = .addi rd rs1 1 ∧ CompletesWith (expandPseudo (.inc rd rs1)) rd (readReg rs1 s + 1) s) ∧
    (expandPseudo (.dec rd rs1) = .addi rd rs1 (-1) ∧ CompletesWith (expandPseudo (.dec rd rs1)) rd (readReg rs1 s - 1) s) ∧
    (expandPseudo (.mov rd rs1) = .add rd rs1 0 ∧ CompletesWith (expandPseudo (.mov rd rs1)) rd (readReg rs1 s) s) ∧
    (expandPseudo (.clr rd) = .xor rd rd rd ∧ CompletesWith (expandPseudo (.clr rd)) rd 0 s) ∧
    (expandPseudo (.neg rd) = .sub rd 0 rd ∧ CompletesWith (expandPseudo (.neg rd)) rd (-(readReg rd s)) s) ∧
    (expandPseudo (.slt rd rs1 rs2) = .bch rd rs1 rs2 ∧ CompletesWith (expandPseudo (.slt rd rs1 rs2)) rd
      (if (readReg rs1 s).toNat < (readReg rs2 s).toNat then 1 else 0) s) ∧
    (expandPseudo (.sgt rd rs1 rs2) = .bch rd rs2 rs1 ∧ CompletesWith (expandPseudo (.sgt rd rs1 rs2)) rd
      (if (readReg rs1 s).toNat > (readReg rs2 s).toNat then 1 else 0) s) ∧
    (expandPseudo (.lea rd rs1 imm) = .addi rd rs1 imm ∧ CompletesWith (expandPseudo (.lea rd rs1 imm)) rd
      (BitVec.ofNat 32 (baseSum rs1 imm s)) s)

/-- R207, R211 to R213, R216 to R219: the one-instruction mnemonics that jump, and the instruction each is. -/
def Obligations.PseudoJumps : Prop :=
  ∀ (rs1 rs2 : RegNum) (imm : Imm12) (imm21 : Imm21) (s : State),
    (expandPseudo .ret = .jalr 0 4 0 ∧ encode (expandPseudo .ret) = 0x18040000 ∧ OnlyMovesTo (expandPseudo .ret) (readReg 4 s) s) ∧
    (expandPseudo (.jle rs1 rs2 imm) = .jge rs2 rs1 imm ∧ OnlyMovesTo (expandPseudo (.jle rs1 rs2 imm))
      (if (readReg rs1 s).toNat ≤ (readReg rs2 s).toNat then BitVec.ofInt 32 (s.pc.toNat + imm.toInt) else s.pc + 4) s) ∧
    (expandPseudo (.jgt rs1 rs2 imm) = .jlt rs2 rs1 imm ∧ OnlyMovesTo (expandPseudo (.jgt rs1 rs2 imm))
      (if (readReg rs1 s).toNat > (readReg rs2 s).toNat then BitVec.ofInt 32 (s.pc.toNat + imm.toInt) else s.pc + 4) s) ∧
    (expandPseudo (.jmp imm21) = .jal 0 imm21 ∧ encode (expandPseudo (.jmp 0)) = 0x14000000 ∧ OnlyMovesTo (expandPseudo (.jmp imm21))
      (BitVec.ofInt 32 (s.pc.toNat + imm21.toInt)) s) ∧
    (expandPseudo (.jz rs1 imm) = .jeq rs1 0 imm ∧ OnlyMovesTo (expandPseudo (.jz rs1 imm))
      (if (readReg rs1 s).toInt = 0 then BitVec.ofInt 32 (s.pc.toNat + imm.toInt) else s.pc + 4) s) ∧
    (expandPseudo (.jnz rs1 imm) = .jne rs1 0 imm ∧ OnlyMovesTo (expandPseudo (.jnz rs1 imm))
      (if (readReg rs1 s).toInt ≠ 0 then BitVec.ofInt 32 (s.pc.toNat + imm.toInt) else s.pc + 4) s) ∧
    (expandPseudo (.jlz rs1 imm) = .jslt rs1 0 imm ∧ OnlyMovesTo (expandPseudo (.jlz rs1 imm))
      (if (readReg rs1 s).toInt < 0 then BitVec.ofInt 32 (s.pc.toNat + imm.toInt) else s.pc + 4) s) ∧
    (expandPseudo (.jgz rs1 imm) = .jslt 0 rs1 imm ∧ OnlyMovesTo (expandPseudo (.jgz rs1 imm))
      (if (readReg rs1 s).toInt > 0 then BitVec.ofInt 32 (s.pc.toNat + imm.toInt) else s.pc + 4) s)

/-- R234: three XORs swap two different registers; the same register twice gives 0; with `zr` nothing changes. -/
def Obligations.ExchangeSwaps : Prop :=
  ∀ (a b : RegNum) (s : State), ∃ is t, expandMacro (.xchg a b) = some is ∧
    is = [.xor a a b, .xor b a b, .xor a a b] ∧ execAll is s = .next t ∧ t.pc = s.pc + 12 ∧
    SameRegsBut [a, b] s t ∧ SameCsrs s t ∧ SameMem s t ∧ SameOutside s t ∧
    (a ≠ b → a ≠ 0 → b ≠ 0 → readReg a t = readReg b s ∧ readReg b t = readReg a s) ∧
    (a = b → readReg a t = 0) ∧
    (a ≠ b → (a = 0 ∨ b = 0) → readReg a t = readReg a s ∧ readReg b t = readReg b s)

/-- R231 in the spec's corrected reading (D38, log 34): LDI loads every 32-bit constant, in one or two instructions, and
touches no other register. -/
def Obligations.LoadImmediateLoadsAnyConstant : Prop :=
  ∀ (rd : RegNum) (imm : DWord) (s : State), ∃ is t, expandMacro (.ldi rd imm) = some is ∧ is.length ≤ 2 ∧
    execAll is s = .next t ∧ WritesAndJumps rd imm (s.pc + BitVec.ofNat 32 (4 * is.length)) s t
end

