-- ==== Sys2Proof/Laws/Encoding.lean ====
section
/-! SUPPORT. The fields of the four formats read back (R91, R92), and words as big-endian bytes (R61). -/

namespace Sys2Proof

/-! ## Bytes -/

/-- The four bytes of a word, joined again. -/
@[simp] theorem wordOfBytes_bytes (w : DWord) :
    wordOfBytes (w.extractLsb' 24 8) (w.extractLsb' 16 8) (w.extractLsb' 8 8) (w.extractLsb' 0 8) = w := by
  apply BitVec.eq_of_getLsbD_eq
  intro i hi
  simp only [wordOfBytes, BitVec.getLsbD_append, BitVec.getLsbD_extractLsb']
  split
  · simp [*]
  · split
    · rw [show 8 + (i - 8) = i by omega]; simp [*]
    · split
      · rw [show 16 + (i - 8 - 8) = i by omega]; simp [*]
      · rw [show 24 + (i - 8 - 8 - 8) = i by omega]
        simp [show i - 8 - 8 - 8 < 8 by omega]

/-- Decoding the bytes of a word is decoding the word. -/
theorem decode_bytesOfWord (w : DWord) (rest : List Byte) :
    decode (bytesOfWord w ++ rest) =
      match decodeWord w with
      | .ok i => .ok (i, rest)
      | .error e => .error e := by
  have h : decode (bytesOfWord w ++ rest) =
      match decodeWord (wordOfBytes (w.extractLsb' 24 8) (w.extractLsb' 16 8) (w.extractLsb' 8 8) (w.extractLsb' 0 8)) with
      | .ok i => .ok (i, rest)
      | .error e => .error e := rfl
  rw [h, wordOfBytes_bytes]

/-! ## Register fields -/

@[simp] theorem toFin_regField (r : RegNum) : (regField r).toFin = r := rfl

/-! ## Slices of a packed word -/

/-- A slice that lies in the low part of a concatenation. -/
theorem slice_low {n m : Nat} (x : BitVec n) (y : BitVec m) {lo len : Nat} (h : lo + len ≤ m) :
    (x ++ y).extractLsb' lo len = y.extractLsb' lo len := by
  apply BitVec.eq_of_getLsbD_eq
  intro i hi
  simp only [BitVec.getLsbD_extractLsb', BitVec.getLsbD_append]
  simp [show lo + i < m by omega]

/-- A slice that lies in the high part of a concatenation. -/
theorem slice_high {n m : Nat} (x : BitVec n) (y : BitVec m) {lo len : Nat} (h : m ≤ lo) :
    (x ++ y).extractLsb' lo len = x.extractLsb' (lo - m) len := by
  apply BitVec.eq_of_getLsbD_eq
  intro i hi
  simp only [BitVec.getLsbD_extractLsb', BitVec.getLsbD_append]
  rw [if_neg (by omega), show lo + i - m = lo - m + i by omega]

/-- The whole of a field. -/
theorem slice_all {n : Nat} (x : BitVec n) : x.extractLsb' 0 n = x := by
  apply BitVec.eq_of_getLsbD_eq
  intro i hi
  simp [hi]

section DI
variable (op : BitVec 6) (rd : BitVec 5) (imm : Imm21)

@[simp] theorem fieldOpcode_packDI : fieldOpcode (packDI op rd imm) = op := by
  unfold fieldOpcode packDI
  rw [slice_high _ _ (by omega), slice_high _ _ (by omega), slice_all]

@[simp] theorem fieldRd_packDI : fieldRd (packDI op rd imm) = rd.toFin := by
  unfold fieldRd packDI
  rw [slice_high _ _ (by omega), slice_low _ _ (by omega), slice_all]

@[simp] theorem fieldImm21_packDI : fieldImm21 (packDI op rd imm) = imm := by
  unfold fieldImm21 packDI
  rw [slice_low _ _ (by omega), slice_all]

end DI

section DSS
variable (op : BitVec 6) (rd rs1 : BitVec 5) (fn4 : BitVec 4) (rs2 : BitVec 5) (fn7 : BitVec 7)

@[simp] theorem fieldOpcode_packDSS : fieldOpcode (packDSS op rd rs1 fn4 rs2 fn7) = op := by
  unfold fieldOpcode packDSS
  rw [slice_high _ _ (by omega), slice_high _ _ (by omega), slice_high _ _ (by omega), slice_high _ _ (by omega),
    slice_high _ _ (by omega), slice_all]

@[simp] theorem fieldRd_packDSS : fieldRd (packDSS op rd rs1 fn4 rs2 fn7) = rd.toFin := by
  unfold fieldRd packDSS
  rw [slice_high _ _ (by omega), slice_high _ _ (by omega), slice_high _ _ (by omega), slice_high _ _ (by omega),
    slice_low _ _ (by omega), slice_all]

@[simp] theorem fieldRs1_packDSS : fieldRs1 (packDSS op rd rs1 fn4 rs2 fn7) = rs1.toFin := by
  unfold fieldRs1 packDSS
  rw [slice_high _ _ (by omega), slice_high _ _ (by omega), slice_high _ _ (by omega), slice_low _ _ (by omega),
    slice_all]

@[simp] theorem fieldFn4_packDSS : fieldFn4 (packDSS op rd rs1 fn4 rs2 fn7) = fn4 := by
  unfold fieldFn4 packDSS
  rw [slice_high _ _ (by omega), slice_high _ _ (by omega), slice_low _ _ (by omega), slice_all]

@[simp] theorem fieldRs2_packDSS : fieldRs2 (packDSS op rd rs1 fn4 rs2 fn7) = rs2.toFin := by
  unfold fieldRs2 packDSS
  rw [slice_high _ _ (by omega), slice_low _ _ (by omega), slice_all]

@[simp] theorem fieldFn7_packDSS : fieldFn7 (packDSS op rd rs1 fn4 rs2 fn7) = fn7 := by
  unfold fieldFn7 packDSS
  rw [slice_low _ _ (by omega), slice_all]

end DSS

section DSI
variable (op : BitVec 6) (rd rs1 : BitVec 5) (fn4 : BitVec 4) (imm : Imm12)

@[simp] theorem fieldOpcode_packDSI : fieldOpcode (packDSI op rd rs1 fn4 imm) = op := by
  unfold fieldOpcode packDSI
  rw [slice_high _ _ (by omega), slice_high _ _ (by omega), slice_high _ _ (by omega), slice_high _ _ (by omega),
    slice_all]

@[simp] theorem fieldRd_packDSI : fieldRd (packDSI op rd rs1 fn4 imm) = rd.toFin := by
  unfold fieldRd packDSI
  rw [slice_high _ _ (by omega), slice_high _ _ (by omega), slice_high _ _ (by omega), slice_low _ _ (by omega),
    slice_all]

@[simp] theorem fieldRs1_packDSI : fieldRs1 (packDSI op rd rs1 fn4 imm) = rs1.toFin := by
  unfold fieldRs1 packDSI
  rw [slice_high _ _ (by omega), slice_high _ _ (by omega), slice_low _ _ (by omega), slice_all]

@[simp] theorem fieldFn4_packDSI : fieldFn4 (packDSI op rd rs1 fn4 imm) = fn4 := by
  unfold fieldFn4 packDSI
  rw [slice_high _ _ (by omega), slice_low _ _ (by omega), slice_all]

@[simp] theorem fieldImm12_packDSI : fieldImm12 (packDSI op rd rs1 fn4 imm) = imm := by
  unfold fieldImm12 packDSI
  rw [slice_low _ _ (by omega), slice_all]

/-- The position literal of CSRS and CSRC: bit 0 of the rd field above the rs1 field (R98). -/
@[simp] theorem fieldPos_packDSI : fieldPos (packDSI op rd rs1 fn4 imm) = rd.extractLsb' 0 1 ++ rs1 := by
  unfold fieldPos packDSI
  rw [slice_high _ _ (by omega), slice_high _ _ (by omega)]
  apply BitVec.eq_of_getLsbD_eq
  intro i hi
  simp only [BitVec.getLsbD_extractLsb', BitVec.getLsbD_append]
  by_cases h : i < 5
  · simp [h, show i < 6 by omega]
  · have : i = 5 := by omega
    subst this
    simp

end DSI

section SSI
variable (op : BitVec 6) (rs1 : BitVec 5) (fn4 : BitVec 4) (rs2 : BitVec 5) (imm : Imm12)

@[simp] theorem fieldOpcode_packSSI : fieldOpcode (packSSI op rs1 fn4 rs2 imm) = op := by
  unfold fieldOpcode packSSI
  rw [slice_high _ _ (by omega), slice_high _ _ (by omega), slice_high _ _ (by omega), slice_high _ _ (by omega),
    slice_high _ _ (by omega), slice_all]

@[simp] theorem fieldRs1_packSSI : fieldRs1 (packSSI op rs1 fn4 rs2 imm) = rs1.toFin := by
  unfold fieldRs1 packSSI
  rw [slice_high _ _ (by omega), slice_high _ _ (by omega), slice_high _ _ (by omega), slice_low _ _ (by omega),
    slice_all]

@[simp] theorem fieldFn4_packSSI : fieldFn4 (packSSI op rs1 fn4 rs2 imm) = fn4 := by
  unfold fieldFn4 packSSI
  rw [slice_high _ _ (by omega), slice_high _ _ (by omega), slice_low _ _ (by omega), slice_all]

@[simp] theorem fieldRs2_packSSI : fieldRs2 (packSSI op rs1 fn4 rs2 imm) = rs2.toFin := by
  unfold fieldRs2 packSSI
  rw [slice_high _ _ (by omega), slice_low _ _ (by omega), slice_all]

@[simp] theorem fieldImmSSI_packSSI : fieldImmSSI (packSSI op rs1 fn4 rs2 imm) = imm := by
  have hhi : (packSSI op rs1 fn4 rs2 imm).extractLsb' 21 5 = imm.extractLsb' 7 5 := by
    unfold packSSI
    rw [slice_high _ _ (by omega), slice_high _ _ (by omega), slice_high _ _ (by omega), slice_high _ _ (by omega),
      slice_low _ _ (by omega), slice_all]
  have hlo : (packSSI op rs1 fn4 rs2 imm).extractLsb' 0 7 = imm.extractLsb' 0 7 := by
    unfold packSSI
    rw [slice_low _ _ (by omega), slice_all]
  unfold fieldImmSSI
  rw [hhi, hlo]
  apply BitVec.eq_of_getLsbD_eq
  intro i hi
  simp only [BitVec.getLsbD_append, BitVec.getLsbD_extractLsb']
  by_cases h : i < 7
  · simp [h]
  · simp [h, show i - 7 < 5 by omega, show 7 + (i - 7) = i by omega]

end SSI

/-! ## The position of CSRS and CSRC -/

@[simp] theorem posFields (pos : BitPos) :
    ((pos.extractLsb' 5 1).setWidth 5).extractLsb' 0 1 ++ pos.extractLsb' 0 5 = pos := by
  revert pos; decide

end Sys2Proof
end

