-- ==== Sys2Proof/Laws/State.lean ====
section
/-! SUPPORT. One lemma per field of State per update, so that no proof unfolds a record update. -/

namespace Sys2Proof.Machine

/-! ## setPc -/

section
variable (t : DWord) (s : State)

@[simp] theorem setPc_regs : (setPc t s).regs = s.regs := rfl
@[simp] theorem setPc_pc : (setPc t s).pc = t := rfl
@[simp] theorem setPc_mstatus : (setPc t s).mstatus = s.mstatus := rfl
@[simp] theorem setPc_miva : (setPc t s).miva = s.miva := rfl
@[simp] theorem setPc_mra : (setPc t s).mra = s.mra := rfl
@[simp] theorem setPc_mcause : (setPc t s).mcause = s.mcause := rfl
@[simp] theorem setPc_mpriv : (setPc t s).mpriv = s.mpriv := rfl
@[simp] theorem setPc_kstatus : (setPc t s).kstatus = s.kstatus := rfl
@[simp] theorem setPc_kiva : (setPc t s).kiva = s.kiva := rfl
@[simp] theorem setPc_kra : (setPc t s).kra = s.kra := rfl
@[simp] theorem setPc_kcause : (setPc t s).kcause = s.kcause := rfl
@[simp] theorem setPc_kpriv : (setPc t s).kpriv = s.kpriv := rfl
@[simp] theorem setPc_mem : (setPc t s).mem = s.mem := rfl
@[simp] theorem setPc_storedTo : (setPc t s).storedTo = s.storedTo := rfl
@[simp] theorem setPc_irqQueue : (setPc t s).irqQueue = s.irqQueue := rfl
@[simp] theorem setPc_irqInput : (setPc t s).irqInput = s.irqInput := rfl
@[simp] theorem setPc_portTrace : (setPc t s).portTrace = s.portTrace := rfl
@[simp] theorem setPc_freeDraws : (setPc t s).freeDraws = s.freeDraws := rfl
@[simp] theorem setPc_platform : (setPc t s).platform = s.platform := rfl

end

/-! ## advance -/

section
variable  (s : State)

@[simp] theorem advance_regs : (advance s).regs = s.regs := rfl
@[simp] theorem advance_pc : (advance s).pc = s.pc + 4 := rfl
@[simp] theorem advance_mstatus : (advance s).mstatus = s.mstatus := rfl
@[simp] theorem advance_miva : (advance s).miva = s.miva := rfl
@[simp] theorem advance_mra : (advance s).mra = s.mra := rfl
@[simp] theorem advance_mcause : (advance s).mcause = s.mcause := rfl
@[simp] theorem advance_mpriv : (advance s).mpriv = s.mpriv := rfl
@[simp] theorem advance_kstatus : (advance s).kstatus = s.kstatus := rfl
@[simp] theorem advance_kiva : (advance s).kiva = s.kiva := rfl
@[simp] theorem advance_kra : (advance s).kra = s.kra := rfl
@[simp] theorem advance_kcause : (advance s).kcause = s.kcause := rfl
@[simp] theorem advance_kpriv : (advance s).kpriv = s.kpriv := rfl
@[simp] theorem advance_mem : (advance s).mem = s.mem := rfl
@[simp] theorem advance_storedTo : (advance s).storedTo = s.storedTo := rfl
@[simp] theorem advance_irqQueue : (advance s).irqQueue = s.irqQueue := rfl
@[simp] theorem advance_irqInput : (advance s).irqInput = s.irqInput := rfl
@[simp] theorem advance_portTrace : (advance s).portTrace = s.portTrace := rfl
@[simp] theorem advance_freeDraws : (advance s).freeDraws = s.freeDraws := rfl
@[simp] theorem advance_platform : (advance s).platform = s.platform := rfl

end

/-! ## setMode -/

section
variable (m : PrivMode) (s : State)

@[simp] theorem setMode_regs : (setMode m s).regs = s.regs := rfl
@[simp] theorem setMode_pc : (setMode m s).pc = s.pc := rfl
@[simp] theorem setMode_mstatus : (setMode m s).mstatus = s.mstatus.extractLsb' 3 29 ++ m.toBits ++ s.mstatus.extractLsb' 0 1 := rfl
@[simp] theorem setMode_miva : (setMode m s).miva = s.miva := rfl
@[simp] theorem setMode_mra : (setMode m s).mra = s.mra := rfl
@[simp] theorem setMode_mcause : (setMode m s).mcause = s.mcause := rfl
@[simp] theorem setMode_mpriv : (setMode m s).mpriv = s.mpriv := rfl
@[simp] theorem setMode_kstatus : (setMode m s).kstatus = s.kstatus := rfl
@[simp] theorem setMode_kiva : (setMode m s).kiva = s.kiva := rfl
@[simp] theorem setMode_kra : (setMode m s).kra = s.kra := rfl
@[simp] theorem setMode_kcause : (setMode m s).kcause = s.kcause := rfl
@[simp] theorem setMode_kpriv : (setMode m s).kpriv = s.kpriv := rfl
@[simp] theorem setMode_mem : (setMode m s).mem = s.mem := rfl
@[simp] theorem setMode_storedTo : (setMode m s).storedTo = s.storedTo := rfl
@[simp] theorem setMode_irqQueue : (setMode m s).irqQueue = s.irqQueue := rfl
@[simp] theorem setMode_irqInput : (setMode m s).irqInput = s.irqInput := rfl
@[simp] theorem setMode_portTrace : (setMode m s).portTrace = s.portTrace := rfl
@[simp] theorem setMode_freeDraws : (setMode m s).freeDraws = s.freeDraws := rfl
@[simp] theorem setMode_platform : (setMode m s).platform = s.platform := rfl

end

/-! ## recordPort -/

section
variable (p : PortAccess) (s : State)

@[simp] theorem recordPort_regs : (recordPort p s).regs = s.regs := rfl
@[simp] theorem recordPort_pc : (recordPort p s).pc = s.pc := rfl
@[simp] theorem recordPort_mstatus : (recordPort p s).mstatus = s.mstatus := rfl
@[simp] theorem recordPort_miva : (recordPort p s).miva = s.miva := rfl
@[simp] theorem recordPort_mra : (recordPort p s).mra = s.mra := rfl
@[simp] theorem recordPort_mcause : (recordPort p s).mcause = s.mcause := rfl
@[simp] theorem recordPort_mpriv : (recordPort p s).mpriv = s.mpriv := rfl
@[simp] theorem recordPort_kstatus : (recordPort p s).kstatus = s.kstatus := rfl
@[simp] theorem recordPort_kiva : (recordPort p s).kiva = s.kiva := rfl
@[simp] theorem recordPort_kra : (recordPort p s).kra = s.kra := rfl
@[simp] theorem recordPort_kcause : (recordPort p s).kcause = s.kcause := rfl
@[simp] theorem recordPort_kpriv : (recordPort p s).kpriv = s.kpriv := rfl
@[simp] theorem recordPort_mem : (recordPort p s).mem = s.mem := rfl
@[simp] theorem recordPort_storedTo : (recordPort p s).storedTo = s.storedTo := rfl
@[simp] theorem recordPort_irqQueue : (recordPort p s).irqQueue = s.irqQueue := rfl
@[simp] theorem recordPort_irqInput : (recordPort p s).irqInput = s.irqInput := rfl
@[simp] theorem recordPort_portTrace : (recordPort p s).portTrace = p :: s.portTrace := rfl
@[simp] theorem recordPort_freeDraws : (recordPort p s).freeDraws = s.freeDraws := rfl
@[simp] theorem recordPort_platform : (recordPort p s).platform = s.platform := rfl

end

/-! ## afterBoundary -/

section
variable (q : List DWord) (s : State)

@[simp] theorem afterBoundary_regs : (afterBoundary q s).regs = s.regs := rfl
@[simp] theorem afterBoundary_pc : (afterBoundary q s).pc = s.pc := rfl
@[simp] theorem afterBoundary_mstatus : (afterBoundary q s).mstatus = s.mstatus := rfl
@[simp] theorem afterBoundary_miva : (afterBoundary q s).miva = s.miva := rfl
@[simp] theorem afterBoundary_mra : (afterBoundary q s).mra = s.mra := rfl
@[simp] theorem afterBoundary_mcause : (afterBoundary q s).mcause = s.mcause := rfl
@[simp] theorem afterBoundary_mpriv : (afterBoundary q s).mpriv = s.mpriv := rfl
@[simp] theorem afterBoundary_kstatus : (afterBoundary q s).kstatus = s.kstatus := rfl
@[simp] theorem afterBoundary_kiva : (afterBoundary q s).kiva = s.kiva := rfl
@[simp] theorem afterBoundary_kra : (afterBoundary q s).kra = s.kra := rfl
@[simp] theorem afterBoundary_kcause : (afterBoundary q s).kcause = s.kcause := rfl
@[simp] theorem afterBoundary_kpriv : (afterBoundary q s).kpriv = s.kpriv := rfl
@[simp] theorem afterBoundary_mem : (afterBoundary q s).mem = s.mem := rfl
@[simp] theorem afterBoundary_storedTo : (afterBoundary q s).storedTo = s.storedTo := rfl
@[simp] theorem afterBoundary_irqQueue : (afterBoundary q s).irqQueue = q.take (MaskedIrq.capacity s.platform.maskedIrq) := rfl
@[simp] theorem afterBoundary_irqInput : (afterBoundary q s).irqInput = s.irqInput.tail := rfl
@[simp] theorem afterBoundary_portTrace : (afterBoundary q s).portTrace = s.portTrace := rfl
@[simp] theorem afterBoundary_freeDraws : (afterBoundary q s).freeDraws = s.freeDraws := rfl
@[simp] theorem afterBoundary_platform : (afterBoundary q s).platform = s.platform := rfl

end

/-! ## enterFromMachine -/

section
variable (c ra : DWord) (s : State)

@[simp] theorem enterFromMachine_regs : (enterFromMachine c ra s).regs = s.regs := rfl
@[simp] theorem enterFromMachine_pc : (enterFromMachine c ra s).pc = s.miva := rfl
@[simp] theorem enterFromMachine_mstatus : (enterFromMachine c ra s).mstatus = s.mstatus := rfl
@[simp] theorem enterFromMachine_miva : (enterFromMachine c ra s).miva = s.miva := rfl
@[simp] theorem enterFromMachine_mra : (enterFromMachine c ra s).mra = ra := rfl
@[simp] theorem enterFromMachine_mcause : (enterFromMachine c ra s).mcause = c := rfl
@[simp] theorem enterFromMachine_mpriv : (enterFromMachine c ra s).mpriv = s.mpriv := rfl
@[simp] theorem enterFromMachine_kstatus : (enterFromMachine c ra s).kstatus = s.kstatus := rfl
@[simp] theorem enterFromMachine_kiva : (enterFromMachine c ra s).kiva = s.kiva := rfl
@[simp] theorem enterFromMachine_kra : (enterFromMachine c ra s).kra = s.kra := rfl
@[simp] theorem enterFromMachine_kcause : (enterFromMachine c ra s).kcause = s.kcause := rfl
@[simp] theorem enterFromMachine_kpriv : (enterFromMachine c ra s).kpriv = s.kpriv := rfl
@[simp] theorem enterFromMachine_mem : (enterFromMachine c ra s).mem = s.mem := rfl
@[simp] theorem enterFromMachine_storedTo : (enterFromMachine c ra s).storedTo = s.storedTo := rfl
@[simp] theorem enterFromMachine_irqQueue : (enterFromMachine c ra s).irqQueue = s.irqQueue := rfl
@[simp] theorem enterFromMachine_irqInput : (enterFromMachine c ra s).irqInput = s.irqInput := rfl
@[simp] theorem enterFromMachine_portTrace : (enterFromMachine c ra s).portTrace = s.portTrace := rfl
@[simp] theorem enterFromMachine_freeDraws : (enterFromMachine c ra s).freeDraws = s.freeDraws := rfl
@[simp] theorem enterFromMachine_platform : (enterFromMachine c ra s).platform = s.platform := rfl

end

/-! ## enterFromKernel -/

section
variable (c ra : DWord) (s : State)

@[simp] theorem enterFromKernel_regs : (enterFromKernel c ra s).regs = s.regs := rfl
@[simp] theorem enterFromKernel_pc : (enterFromKernel c ra s).pc = s.miva := rfl
@[simp] theorem enterFromKernel_mstatus : (enterFromKernel c ra s).mstatus = s.mstatus.extractLsb' 3 29 ++ PrivMode.toBits .machine ++ s.mstatus.extractLsb' 0 1 := rfl
@[simp] theorem enterFromKernel_miva : (enterFromKernel c ra s).miva = s.miva := rfl
@[simp] theorem enterFromKernel_mra : (enterFromKernel c ra s).mra = ra := rfl
@[simp] theorem enterFromKernel_mcause : (enterFromKernel c ra s).mcause = c := rfl
@[simp] theorem enterFromKernel_mpriv : (enterFromKernel c ra s).mpriv = 1 := rfl
@[simp] theorem enterFromKernel_kstatus : (enterFromKernel c ra s).kstatus = s.kstatus := rfl
@[simp] theorem enterFromKernel_kiva : (enterFromKernel c ra s).kiva = s.kiva := rfl
@[simp] theorem enterFromKernel_kra : (enterFromKernel c ra s).kra = s.kra := rfl
@[simp] theorem enterFromKernel_kcause : (enterFromKernel c ra s).kcause = s.kcause := rfl
@[simp] theorem enterFromKernel_kpriv : (enterFromKernel c ra s).kpriv = s.kpriv := rfl
@[simp] theorem enterFromKernel_mem : (enterFromKernel c ra s).mem = s.mem := rfl
@[simp] theorem enterFromKernel_storedTo : (enterFromKernel c ra s).storedTo = s.storedTo := rfl
@[simp] theorem enterFromKernel_irqQueue : (enterFromKernel c ra s).irqQueue = s.irqQueue := rfl
@[simp] theorem enterFromKernel_irqInput : (enterFromKernel c ra s).irqInput = s.irqInput := rfl
@[simp] theorem enterFromKernel_portTrace : (enterFromKernel c ra s).portTrace = s.portTrace := rfl
@[simp] theorem enterFromKernel_freeDraws : (enterFromKernel c ra s).freeDraws = s.freeDraws := rfl
@[simp] theorem enterFromKernel_platform : (enterFromKernel c ra s).platform = s.platform := rfl

end

/-! ## enterFromUser -/

section
variable (c ra : DWord) (s : State)

@[simp] theorem enterFromUser_regs : (enterFromUser c ra s).regs = s.regs := rfl
@[simp] theorem enterFromUser_pc : (enterFromUser c ra s).pc = s.kiva := rfl
@[simp] theorem enterFromUser_mstatus : (enterFromUser c ra s).mstatus = s.mstatus.extractLsb' 3 29 ++ PrivMode.toBits .kernel ++ s.mstatus.extractLsb' 0 1 := rfl
@[simp] theorem enterFromUser_miva : (enterFromUser c ra s).miva = s.miva := rfl
@[simp] theorem enterFromUser_mra : (enterFromUser c ra s).mra = s.mra := rfl
@[simp] theorem enterFromUser_mcause : (enterFromUser c ra s).mcause = s.mcause := rfl
@[simp] theorem enterFromUser_mpriv : (enterFromUser c ra s).mpriv = s.mpriv := rfl
@[simp] theorem enterFromUser_kstatus : (enterFromUser c ra s).kstatus = s.kstatus := rfl
@[simp] theorem enterFromUser_kiva : (enterFromUser c ra s).kiva = s.kiva := rfl
@[simp] theorem enterFromUser_kra : (enterFromUser c ra s).kra = ra := rfl
@[simp] theorem enterFromUser_kcause : (enterFromUser c ra s).kcause = c := rfl
@[simp] theorem enterFromUser_kpriv : (enterFromUser c ra s).kpriv = 0 := rfl
@[simp] theorem enterFromUser_mem : (enterFromUser c ra s).mem = s.mem := rfl
@[simp] theorem enterFromUser_storedTo : (enterFromUser c ra s).storedTo = s.storedTo := rfl
@[simp] theorem enterFromUser_irqQueue : (enterFromUser c ra s).irqQueue = s.irqQueue := rfl
@[simp] theorem enterFromUser_irqInput : (enterFromUser c ra s).irqInput = s.irqInput := rfl
@[simp] theorem enterFromUser_portTrace : (enterFromUser c ra s).portTrace = s.portTrace := rfl
@[simp] theorem enterFromUser_freeDraws : (enterFromUser c ra s).freeDraws = s.freeDraws := rfl
@[simp] theorem enterFromUser_platform : (enterFromUser c ra s).platform = s.platform := rfl

end

/-! ## placeWord -/

section
variable (v : DWord) (s : State)

@[simp] theorem placeWord_regs : (placeWord v s).regs = s.regs := rfl
@[simp] theorem placeWord_pc : (placeWord v s).pc = s.pc := rfl
@[simp] theorem placeWord_mstatus : (placeWord v s).mstatus = s.mstatus := rfl
@[simp] theorem placeWord_miva : (placeWord v s).miva = s.miva := rfl
@[simp] theorem placeWord_mra : (placeWord v s).mra = s.mra := rfl
@[simp] theorem placeWord_mcause : (placeWord v s).mcause = s.mcause := rfl
@[simp] theorem placeWord_mpriv : (placeWord v s).mpriv = s.mpriv := rfl
@[simp] theorem placeWord_kstatus : (placeWord v s).kstatus = s.kstatus := rfl
@[simp] theorem placeWord_kiva : (placeWord v s).kiva = s.kiva := rfl
@[simp] theorem placeWord_kra : (placeWord v s).kra = s.kra := rfl
@[simp] theorem placeWord_kcause : (placeWord v s).kcause = s.kcause := rfl
@[simp] theorem placeWord_kpriv : (placeWord v s).kpriv = s.kpriv := rfl
@[simp] theorem placeWord_mem : (placeWord v s).mem = s.mem.writeBE .dword (alignTo .dword s.pc).toNat v := rfl
@[simp] theorem placeWord_storedTo : (placeWord v s).storedTo = s.storedTo.filter fun x => !(footprint .dword (alignTo .dword s.pc).toNat).contains x := rfl
@[simp] theorem placeWord_irqQueue : (placeWord v s).irqQueue = s.irqQueue := rfl
@[simp] theorem placeWord_irqInput : (placeWord v s).irqInput = s.irqInput := rfl
@[simp] theorem placeWord_portTrace : (placeWord v s).portTrace = s.portTrace := rfl
@[simp] theorem placeWord_freeDraws : (placeWord v s).freeDraws = s.freeDraws := rfl
@[simp] theorem placeWord_platform : (placeWord v s).platform = s.platform := rfl

end

/-! ## writeReg -/

section
variable (r : RegNum) (v : DWord) (s : State)

@[simp] theorem writeReg_pc : (writeReg r v s).pc = s.pc := by unfold writeReg; split <;> rfl
@[simp] theorem writeReg_mstatus : (writeReg r v s).mstatus = s.mstatus := by unfold writeReg; split <;> rfl
@[simp] theorem writeReg_miva : (writeReg r v s).miva = s.miva := by unfold writeReg; split <;> rfl
@[simp] theorem writeReg_mra : (writeReg r v s).mra = s.mra := by unfold writeReg; split <;> rfl
@[simp] theorem writeReg_mcause : (writeReg r v s).mcause = s.mcause := by unfold writeReg; split <;> rfl
@[simp] theorem writeReg_mpriv : (writeReg r v s).mpriv = s.mpriv := by unfold writeReg; split <;> rfl
@[simp] theorem writeReg_kstatus : (writeReg r v s).kstatus = s.kstatus := by unfold writeReg; split <;> rfl
@[simp] theorem writeReg_kiva : (writeReg r v s).kiva = s.kiva := by unfold writeReg; split <;> rfl
@[simp] theorem writeReg_kra : (writeReg r v s).kra = s.kra := by unfold writeReg; split <;> rfl
@[simp] theorem writeReg_kcause : (writeReg r v s).kcause = s.kcause := by unfold writeReg; split <;> rfl
@[simp] theorem writeReg_kpriv : (writeReg r v s).kpriv = s.kpriv := by unfold writeReg; split <;> rfl
@[simp] theorem writeReg_mem : (writeReg r v s).mem = s.mem := by unfold writeReg; split <;> rfl
@[simp] theorem writeReg_storedTo : (writeReg r v s).storedTo = s.storedTo := by unfold writeReg; split <;> rfl
@[simp] theorem writeReg_irqQueue : (writeReg r v s).irqQueue = s.irqQueue := by unfold writeReg; split <;> rfl
@[simp] theorem writeReg_irqInput : (writeReg r v s).irqInput = s.irqInput := by unfold writeReg; split <;> rfl
@[simp] theorem writeReg_portTrace : (writeReg r v s).portTrace = s.portTrace := by unfold writeReg; split <;> rfl
@[simp] theorem writeReg_freeDraws : (writeReg r v s).freeDraws = s.freeDraws := by unfold writeReg; split <;> rfl
@[simp] theorem writeReg_platform : (writeReg r v s).platform = s.platform := by unfold writeReg; split <;> rfl

end

end Sys2Proof.Machine
end

