-- ==== Sys2Proof/Laws/Memory.lean ====
section
/-! SUPPORT. Memory: reading after writing, the canonical form, forced alignment, the record of stores. -/

namespace Sys2Proof.Machine

/-! ## One byte -/

@[simp] theorem Memory.read_nil (a : Nat) : Memory.read [] a = 0 := rfl

theorem Memory.read_cons (b : Nat) (v : Byte) (m : Memory) (a : Nat) :
    Memory.read ((b, v) :: m) a = if a = b then v else Memory.read m a := rfl

/-- A write leaves every other address alone. -/
theorem Memory.read_write_other (m : Memory) {a b : Nat} (v : Byte) (h : b ≠ a) :
    Memory.read (Memory.write m a v) b = Memory.read m b := by
  induction m with
  | nil => unfold Memory.write; split <;> simp [h, Memory.read, Memory.unlisted]
  | cons c m ih =>
    obtain ⟨d, x⟩ := c
    unfold Memory.write
    split
    · split
      · rfl
      · simp [Memory.read_cons, h]
    · split
      · rename_i h2
        subst h2
        split <;> simp [Memory.read_cons, h]
      · simp [Memory.read_cons, ih]

theorem Memory.wfFrom_cons (lo b : Nat) (x : Byte) (m : Memory) :
    Memory.wfFrom lo ((b, x) :: m) = true ↔ lo ≤ b ∧ b < 2 ^ 32 ∧ x ≠ 0 ∧ Memory.wfFrom (b + 1) m = true := by
  simp [Memory.wfFrom, Memory.unlisted, and_assoc]

theorem Memory.wfFrom_mono {lo lo' : Nat} {m : Memory} (h : lo' ≤ lo) (hw : Memory.wfFrom lo m = true) :
    Memory.wfFrom lo' m = true := by
  cases m with
  | nil => rfl
  | cons c m =>
    rw [Memory.wfFrom_cons] at *
    exact ⟨le_trans h hw.1, hw.2⟩

/-- Below its bound a well-formed memory lists nothing. -/
theorem Memory.read_below {lo a : Nat} {m : Memory} (hw : Memory.wfFrom lo m = true) (h : a < lo) :
    Memory.read m a = 0 := by
  induction m generalizing lo with
  | nil => rfl
  | cons c m ih =>
    rw [Memory.wfFrom_cons] at hw
    rw [Memory.read_cons, if_neg (by omega)]
    exact ih hw.2.2.2 (by omega)

theorem Memory.read_write_same_from {lo a : Nat} {m : Memory} (v : Byte) (hw : Memory.wfFrom lo m = true) :
    Memory.read (Memory.write m a v) a = v := by
  induction m generalizing lo with
  | nil => unfold Memory.write; split <;> simp_all [Memory.read_cons, Memory.unlisted]
  | cons c m ih =>
    obtain ⟨b, x⟩ := c
    rw [Memory.wfFrom_cons] at hw
    unfold Memory.write
    split
    · split
      · rename_i h1 h2
        rw [Memory.read_cons, if_neg (by omega), Memory.read_below hw.2.2.2 (by omega), h2]; rfl
      · simp [Memory.read_cons]
    · split
      · split
        · rename_i h1 h2 h3
          rw [Memory.read_below hw.2.2.2 (by omega), h3]; rfl
        · simp [Memory.read_cons]
      · rename_i h1 h2
        rw [Memory.read_cons, if_neg h2]
        exact ih hw.2.2.2

/-- A read after a write to the same address gives the value written. -/
theorem Memory.read_write_same {m : Memory} (a : Nat) (v : Byte) (hw : m.wf = true) :
    Memory.read (Memory.write m a v) a = v := Memory.read_write_same_from v hw

theorem Memory.write_wfFrom {lo a : Nat} {m : Memory} (v : Byte) (hw : Memory.wfFrom lo m = true) (hlo : lo ≤ a)
    (ha : a < 2 ^ 32) : Memory.wfFrom lo (Memory.write m a v) = true := by
  induction m generalizing lo with
  | nil =>
    unfold Memory.write
    split
    · rfl
    · rename_i h
      exact (Memory.wfFrom_cons ..).2 ⟨hlo, ha, h, rfl⟩
  | cons c m ih =>
    obtain ⟨b, x⟩ := c
    have hw' := hw
    rw [Memory.wfFrom_cons] at hw
    unfold Memory.write
    split
    · split
      · exact hw'
      · rename_i h1 h2
        exact (Memory.wfFrom_cons ..).2 ⟨hlo, ha, h2, (Memory.wfFrom_cons ..).2 ⟨by omega, hw.2⟩⟩
    · split
      · rename_i h1 h2
        subst h2
        split
        · exact Memory.wfFrom_mono (by omega) hw.2.2.2
        · rename_i h3
          exact (Memory.wfFrom_cons ..).2 ⟨hlo, ha, h3, hw.2.2.2⟩
      · rename_i h1 h2
        exact (Memory.wfFrom_cons ..).2 ⟨hw.1, hw.2.1, hw.2.2.1, ih hw.2.2.2 (by omega)⟩

/-- A write keeps the canonical form. -/
theorem Memory.write_wf {m : Memory} {a : Nat} (v : Byte) (hw : m.wf = true) (ha : a < 2 ^ 32) :
    (Memory.write m a v).wf = true := Memory.write_wfFrom v hw (Nat.zero_le a) ha

/-! ## Accesses of a width -/

/-- A multi-byte write leaves every address outside its footprint alone. -/
theorem Memory.read_writeBE_other (m : Memory) (w : Width) (a : Nat) (v : DWord) {b : Nat} (h : b ∉ footprint w a) :
    Memory.read (Memory.writeBE m w a v) b = Memory.read m b := by
  cases w <;> simp only [footprint, List.mem_cons, List.not_mem_nil, or_false, not_or] at h <;>
    simp only [Memory.writeBE]
  · exact Memory.read_write_other _ _ h
  · rw [Memory.read_write_other _ _ h.2, Memory.read_write_other _ _ h.1]
  · rw [Memory.read_write_other _ _ h.2.2.2, Memory.read_write_other _ _ h.2.2.1, Memory.read_write_other _ _ h.2.1,
      Memory.read_write_other _ _ h.1]

/-- A multi-byte write inside the address space keeps the canonical form. -/
theorem Memory.writeBE_wf {m : Memory} (w : Width) {a : Nat} (v : DWord) (hw : m.wf = true)
    (ha : ∀ b ∈ footprint w a, b < 2 ^ 32) : (Memory.writeBE m w a v).wf = true := by
  cases w <;> simp only [footprint, List.mem_cons, List.not_mem_nil, or_false, forall_eq_or_imp, forall_eq] at ha <;>
    simp only [Memory.writeBE]
  · exact Memory.write_wf _ hw ha
  · exact Memory.write_wf _ (Memory.write_wf _ hw ha.1) ha.2
  · exact Memory.write_wf _ (Memory.write_wf _ (Memory.write_wf _ (Memory.write_wf _ hw ha.1) ha.2.1) ha.2.2.1) ha.2.2.2

/-- STB's byte. -/
theorem Memory.read_writeBE_byte {m : Memory} (a : Nat) (v : DWord) (hw : m.wf = true) :
    Memory.read (Memory.writeBE m .byte a v) a = v.extractLsb' 0 8 := Memory.read_write_same a _ hw

/-- STW's bytes, the most significant at the lower address, inside the address space. -/
theorem Memory.read_writeBE_word {m : Memory} (a : Nat) (v : DWord) (hw : m.wf = true) (ha : a + 1 < 2 ^ 32) :
    Memory.read (Memory.writeBE m .word a v) a = v.extractLsb' 8 8 ∧
    Memory.read (Memory.writeBE m .word a v) (a + 1) = v.extractLsb' 0 8 := by
  have h1 : (Memory.write m a (v.extractLsb' 8 8)).wf = true := Memory.write_wf _ hw (by omega)
  simp only [Memory.writeBE]
  refine ⟨?_, Memory.read_write_same _ _ h1⟩
  rw [Memory.read_write_other _ _ (by omega), Memory.read_write_same _ _ hw]

/-- STD's bytes, the most significant at the lowest address, inside the address space. -/
theorem Memory.read_writeBE_dword {m : Memory} (a : Nat) (v : DWord) (hw : m.wf = true) (ha : a + 3 < 2 ^ 32) :
    Memory.read (Memory.writeBE m .dword a v) a = v.extractLsb' 24 8 ∧
    Memory.read (Memory.writeBE m .dword a v) (a + 1) = v.extractLsb' 16 8 ∧
    Memory.read (Memory.writeBE m .dword a v) (a + 2) = v.extractLsb' 8 8 ∧
    Memory.read (Memory.writeBE m .dword a v) (a + 3) = v.extractLsb' 0 8 := by
  have h1 : (Memory.write m a (v.extractLsb' 24 8)).wf = true := Memory.write_wf _ hw (by omega)
  have h2 : (Memory.write (Memory.write m a (v.extractLsb' 24 8)) (a + 1) (v.extractLsb' 16 8)).wf = true :=
    Memory.write_wf _ h1 (by omega)
  have h3 := Memory.write_wf (a := a + 2) (v.extractLsb' 8 8) h2 (by omega)
  simp only [Memory.writeBE]
  refine ⟨?_, ?_, ?_, Memory.read_write_same _ _ h3⟩
  · rw [Memory.read_write_other _ _ (by omega), Memory.read_write_other _ _ (by omega),
      Memory.read_write_other _ _ (by omega), Memory.read_write_same _ _ hw]
  · rw [Memory.read_write_other _ _ (by omega), Memory.read_write_other _ _ (by omega), Memory.read_write_same _ _ h1]
  · rw [Memory.read_write_other _ _ (by omega), Memory.read_write_same _ _ h2]

/-! ## Forced alignment (R63) -/

@[simp] theorem alignTo_byte (ea : DWord) : alignTo .byte ea = ea := rfl

theorem alignTo_word_toNat (ea : DWord) : (alignTo .word ea).toNat = ea.toNat / 2 * 2 := by
  simp only [alignTo, BitVec.toNat_append, BitVec.extractLsb'_toNat, Nat.shiftLeft_eq,
    Nat.shiftRight_eq_div_pow]
  have := ea.isLt
  simp
  omega

theorem alignTo_dword_toNat (ea : DWord) : (alignTo .dword ea).toNat = ea.toNat / 4 * 4 := by
  simp only [alignTo, BitVec.toNat_append, BitVec.extractLsb'_toNat, Nat.shiftLeft_eq,
    Nat.shiftRight_eq_div_pow]
  have := ea.isLt
  simp
  omega

/-- An aligned access stays inside the address space (R64). -/
theorem footprint_alignTo_lt (w : Width) (ea : DWord) : ∀ b ∈ footprint w (alignTo w ea).toNat, b < 2 ^ 32 := by
  have h := ea.isLt
  have h2 := alignTo_word_toNat ea
  have h4 := alignTo_dword_toNat ea
  intro b hb
  cases w <;> simp only [footprint, List.mem_cons, List.not_mem_nil, or_false] at hb
  · rw [hb, alignTo_byte]; exact h
  · omega
  · omega

theorem footprint_accessAddr_lt (w : Width) (rs1 : RegNum) (imm : Imm12) (s : State) :
    ∀ b ∈ footprint w (accessAddr w rs1 imm s).toNat, b < 2 ^ 32 := footprint_alignTo_lt w _

/-! ## The record of stores (R80) -/

theorem addrsRise_cons (lo a : Nat) (l : List Nat) :
    addrsRise lo (a :: l) = true ↔ lo ≤ a ∧ a < 2 ^ 32 ∧ addrsRise (a + 1) l = true := by
  simp [addrsRise, and_assoc]

theorem addrInsert_rise {lo a : Nat} {l : List Nat} (h : addrsRise lo l = true) (hlo : lo ≤ a) (ha : a < 2 ^ 32) :
    addrsRise lo (addrInsert a l) = true := by
  induction l generalizing lo with
  | nil => exact (addrsRise_cons ..).2 ⟨hlo, ha, rfl⟩
  | cons b l ih =>
    have h' := h
    rw [addrsRise_cons] at h
    unfold addrInsert
    split
    · exact (addrsRise_cons ..).2 ⟨hlo, ha, (addrsRise_cons ..).2 ⟨by omega, h.2⟩⟩
    · split
      · exact h'
      · exact (addrsRise_cons ..).2 ⟨h.1, h.2.1, ih h.2.2 (by omega)⟩

theorem mem_addrInsert {a b : Nat} {l : List Nat} : b ∈ addrInsert a l ↔ b = a ∨ b ∈ l := by
  induction l with
  | nil => simp [addrInsert]
  | cons c l ih =>
    unfold addrInsert
    split
    · simp
    · split
      · rename_i h; subst h; simp
      · simp only [List.mem_cons, ih]; tauto

theorem addrInsertAll_rise {as l : List Nat} (h : addrsRise 0 l = true) (ha : ∀ a ∈ as, a < 2 ^ 32) :
    addrsRise 0 (addrInsertAll as l) = true := by
  induction as generalizing l with
  | nil => exact h
  | cons a as ih =>
    exact ih (addrInsert_rise h (Nat.zero_le a) (ha a (by simp))) fun b hb => ha b (by simp [hb])

theorem mem_addrInsertAll {b : Nat} {as l : List Nat} : b ∈ addrInsertAll as l ↔ b ∈ as ∨ b ∈ l := by
  induction as generalizing l with
  | nil => simp [addrInsertAll]
  | cons a as ih => simp only [addrInsertAll, ih, mem_addrInsert, List.mem_cons]; tauto

theorem addrsRise_filter {lo : Nat} {l : List Nat} (p : Nat → Bool) (h : addrsRise lo l = true) :
    addrsRise lo (l.filter p) = true := by
  induction l generalizing lo with
  | nil => rfl
  | cons a l ih =>
    rw [addrsRise_cons] at h
    rw [List.filter_cons]
    have := ih h.2.2
    split
    · exact (addrsRise_cons ..).2 ⟨h.1, h.2.1, this⟩
    · clear ih
      cases hf : l.filter p with
      | nil => rfl
      | cons b l' =>
        rw [hf, addrsRise_cons] at this
        exact (addrsRise_cons ..).2 ⟨by omega, this.2⟩

/-! ## The named operations -/

/-- Everything a load of memory can do. -/
theorem loadMem_ok {w : Width} {a v : DWord} {s : State} :
    loadMem w a s = .ok v ↔ mapped w a s = true ∧ v = s.mem.readBE w a.toNat := by
  cases h : mapped w a s <;> simp [loadMem, h, eq_comm]

theorem loadMem_error {w : Width} {a : DWord} {s : State} {f : Fault} :
    loadMem w a s = .error f ↔ mapped w a s = false ∧ f = .unmappedAddress := by
  cases h : mapped w a s <;> simp [loadMem, h, eq_comm]

theorem memoryAt_of_ramAt {a : Nat} {s : State} (h : ramAt a s = true) : memoryAt a s = true := by
  simp only [ramAt, memoryAt, List.any_eq_true, Bool.and_eq_true] at h ⊢
  obtain ⟨r, hr, _, hh⟩ := h
  exact ⟨r, hr, hh⟩

/-- Which addresses hold memory is the platform's, and no step changes it. -/
theorem mapped_congr {s t : State} (h : t.platform = s.platform) (w : Width) (a : DWord) :
    mapped w a t = mapped w a s := by
  simp only [mapped, memoryAt, h]

theorem writable_congr {s t : State} (h : t.platform = s.platform) (w : Width) (a : DWord) :
    writable w a t = writable w a s := by
  simp only [writable, ramAt, h]

/-- What can be written can be read. -/
theorem mapped_of_writable {w : Width} {a : DWord} {s : State} (h : writable w a s = true) : mapped w a s = true := by
  simp only [writable, mapped, List.all_eq_true] at h ⊢
  exact fun x hx => memoryAt_of_ramAt (h x hx)

/-- Everything a store to memory can do. -/
theorem storeMem_ok {w : Width} {a v : DWord} {s t : State} :
    storeMem w a v s = .ok t ↔ writable w a s = true ∧
      t = { s with mem := s.mem.writeBE w a.toNat v, storedTo := addrInsertAll (footprint w a.toNat) s.storedTo } := by
  cases h : writable w a s <;> cases hm : mapped w a s <;> simp [storeMem, h, hm, eq_comm]

theorem storeMem_error {w : Width} {a v : DWord} {s : State} {f : Fault} :
    storeMem w a v s = .error f ↔ (f = .unmappedAddress ∧ mapped w a s = false) ∨
      (f = .storeToRom ∧ mapped w a s = true ∧ writable w a s = false) := by
  cases h : writable w a s with
  | true => simp [storeMem, h, mapped_of_writable h]
  | false => cases hm : mapped w a s <;> simp [storeMem, h, hm, eq_comm]

end Sys2Proof.Machine
end

