-- ==== Sys2Proof/Laws/Ops.lean ====
section
/-! SUPPORT. What each shared operation can do, said once: the small lemmas of the register file, the mode, the CSRs,
and one inversion lemma for each operation that can stop. -/

namespace Sys2Proof.Machine

/-! ## General registers -/

@[simp] theorem readReg_zero (s : State) : readReg 0 s = 0 := rfl

/-- A register reads as its slot of the register file, so only `regs` matters. -/
theorem readReg_congr {s t : State} (h : t.regs = s.regs) (r : RegNum) : readReg r t = readReg r s := by
  simp [readReg, h]

/-- `x[d] <- v`, read back. -/
theorem readReg_writeReg_same (d : RegNum) (v : DWord) (s : State) :
    readReg d (writeReg d v s) = if d = 0 then 0 else v := by
  unfold readReg writeReg
  split
  · rfl
  · simp

/-- `x[d] <- v` leaves every other register alone. -/
theorem readReg_writeReg_other {r d : RegNum} (v : DWord) (s : State) (h : r ≠ d) :
    readReg r (writeReg d v s) = readReg r s := by
  unfold readReg writeReg
  split
  · rfl
  · split
    · rfl
    · have : d.val ≠ r.val := fun e => h (Fin.ext e.symm)
      simp [this]

@[simp] theorem writeReg_zero (v : DWord) (s : State) : writeReg 0 v s = s := rfl

/-- Slot 0 of the register file is never written. -/
theorem writeReg_slot_zero (d : RegNum) (v : DWord) (s : State) :
    (writeReg d v s).regs[(0 : RegNum)] = s.regs[(0 : RegNum)] := by
  unfold writeReg
  split
  · rfl
  · rename_i h
    have : d.val ≠ 0 := fun e => h (Fin.ext e)
    simp [this]

@[simp] theorem readReg_setPc (r : RegNum) (t : DWord) (s : State) : readReg r (setPc t s) = readReg r s := rfl
@[simp] theorem readReg_advance (r : RegNum) (s : State) : readReg r (advance s) = readReg r s := rfl
@[simp] theorem readReg_setMode (r : RegNum) (m : PrivMode) (s : State) : readReg r (setMode m s) = readReg r s := rfl
@[simp] theorem readReg_recordPort (r : RegNum) (p : PortAccess) (s : State) :
    readReg r (recordPort p s) = readReg r s := rfl
@[simp] theorem readReg_afterBoundary (r : RegNum) (q : List DWord) (s : State) :
    readReg r (afterBoundary q s) = readReg r s := rfl
@[simp] theorem readReg_placeWord (r : RegNum) (v : DWord) (s : State) : readReg r (placeWord v s) = readReg r s := rfl
@[simp] theorem readReg_enterFromMachine (r : RegNum) (c ra : DWord) (s : State) :
    readReg r (enterFromMachine c ra s) = readReg r s := rfl
@[simp] theorem readReg_enterFromKernel (r : RegNum) (c ra : DWord) (s : State) :
    readReg r (enterFromKernel c ra s) = readReg r s := rfl
@[simp] theorem readReg_enterFromUser (r : RegNum) (c ra : DWord) (s : State) :
    readReg r (enterFromUser c ra s) = readReg r s := rfl

/-! ## The mode (R33) -/

@[simp] theorem PrivMode.ofBits_toBits (m : PrivMode) : PrivMode.ofBits m.toBits = m := by cases m <;> rfl

theorem PrivMode.toBits_ofBits (b : BitVec 2) : (PrivMode.ofBits b).toBits = b := by
  revert b; decide

/-- Two states with the same `mstatus` are in the same mode. -/
theorem mode_congr {s t : State} (h : t.mstatus = s.mstatus) : mode t = mode s := by simp [mode, h]

/-- The bits of `mstatus` after a change of the mode field. -/
theorem setMode_mstatus_bit (m : PrivMode) (s : State) (i : Nat) :
    (setMode m s).mstatus.getLsbD i =
      if i = 1 then m.toBits.getLsbD 0 else if i = 2 then m.toBits.getLsbD 1 else s.mstatus.getLsbD i := by
  simp only [setMode_mstatus, BitVec.getLsbD_append, BitVec.getLsbD_extractLsb']
  rcases i with _ | _ | _ | i
  · simp
  · simp
  · simp
  · have h1 : ¬ (i + 1 + 1 + 1 < 1) := by omega
    have h2 : ¬ (i + 1 + 1 + 1 - 1 < 2) := by omega
    simp only [h1, h2, decide_false, ite_false]
    simp only [show i + 1 + 1 + 1 - 1 - 2 = i by omega, show 3 + i = i + 1 + 1 + 1 by omega]
    by_cases hi : i < 29
    · simp [hi]
    · simp [hi, BitVec.getLsbD_of_ge s.mstatus (i + 1 + 1 + 1) (by omega)]

@[simp] theorem mode_setMode (m : PrivMode) (s : State) : mode (setMode m s) = m := by
  have h : (setMode m s).mstatus.extractLsb' 1 2 = m.toBits := by
    apply BitVec.eq_of_getLsbD_eq
    intro i hi
    rw [BitVec.getLsbD_extractLsb', setMode_mstatus_bit]
    have : i = 0 ∨ i = 1 := by omega
    rcases this with rfl | rfl <;> simp
  rw [mode, modeField, h, PrivMode.ofBits_toBits]

@[simp] theorem mode_setPc (t : DWord) (s : State) : mode (setPc t s) = mode s := rfl
@[simp] theorem mode_advance (s : State) : mode (advance s) = mode s := rfl
@[simp] theorem mode_recordPort (p : PortAccess) (s : State) : mode (recordPort p s) = mode s := rfl
@[simp] theorem mode_writeReg (r : RegNum) (v : DWord) (s : State) : mode (writeReg r v s) = mode s :=
  mode_congr (writeReg_mstatus r v s)
@[simp] theorem mode_afterBoundary (q : List DWord) (s : State) : mode (afterBoundary q s) = mode s := rfl
@[simp] theorem mode_placeWord (v : DWord) (s : State) : mode (placeWord v s) = mode s := rfl
@[simp] theorem mode_enterFromMachine (c ra : DWord) (s : State) : mode (enterFromMachine c ra s) = mode s := rfl
@[simp] theorem mode_enterFromKernel (c ra : DWord) (s : State) : mode (enterFromKernel c ra s) = .machine :=
  mode_setMode ..
@[simp] theorem mode_enterFromUser (c ra : DWord) (s : State) : mode (enterFromUser c ra s) = .kernel :=
  mode_setMode ..

/-! ## Traps (R411 to R416) and returns (R420) -/

/-- Everything a trap entry can do. -/
theorem trapEnter_next {c ra : DWord} {s t : State} (h : trapEnter c ra s = .next t) :
    (mode s = .machine ∧ t = enterFromMachine c ra s) ∨ (mode s = .kernel ∧ t = enterFromKernel c ra s) ∨
    (mode s = .user ∧ t = enterFromUser c ra s) := by
  unfold trapEnter at h
  cases hm : mode s <;> simp [hm] at h <;> simp [h]

theorem trapEnter_not_refused (c ra : DWord) (s : State) (r : Refusal) : trapEnter c ra s ≠ .refused r := by
  unfold trapEnter
  cases mode s <;> simp

/-- Everything a return can do. -/
theorem trapReturn_next {ra v : DWord} {s t : State} (h : trapReturn ra v s = .next t) :
    savedMode v ≠ .reserved ∧ t = setMode (savedMode v) (setPc ra s) := by
  unfold trapReturn at h
  split at h
  · cases h
  · exact ⟨‹_›, by simpa using h.symm⟩

theorem trapReturn_not_refused (ra v : DWord) (s : State) (r : Refusal) : trapReturn ra v s ≠ .refused r := by
  unfold trapReturn
  split <;> simp

/-! ## CSR writes (R265) -/

section
variable (k : CsrNum) (v : DWord) (s : State)

@[simp] theorem setCsr_regs : (setCsr k v s).regs = s.regs := by unfold setCsr; split <;> rfl
@[simp] theorem setCsr_pc : (setCsr k v s).pc = s.pc := by unfold setCsr; split <;> rfl
@[simp] theorem setCsr_mem : (setCsr k v s).mem = s.mem := by unfold setCsr; split <;> rfl
@[simp] theorem setCsr_storedTo : (setCsr k v s).storedTo = s.storedTo := by unfold setCsr; split <;> rfl
@[simp] theorem setCsr_irqQueue : (setCsr k v s).irqQueue = s.irqQueue := by unfold setCsr; split <;> rfl
@[simp] theorem setCsr_irqInput : (setCsr k v s).irqInput = s.irqInput := by unfold setCsr; split <;> rfl
@[simp] theorem setCsr_portTrace : (setCsr k v s).portTrace = s.portTrace := by unfold setCsr; split <;> rfl
@[simp] theorem setCsr_freeDraws : (setCsr k v s).freeDraws = s.freeDraws := by unfold setCsr; split <;> rfl
@[simp] theorem setCsr_platform : (setCsr k v s).platform = s.platform := by unfold setCsr; split <;> rfl
@[simp] theorem readReg_setCsr (r : RegNum) : readReg r (setCsr k v s) = readReg r s :=
  readReg_congr (setCsr_regs k v s) r

/-- Only a write to csr0 touches `mstatus`. -/
theorem setCsr_mstatus : (setCsr k v s).mstatus = if k = 0 then v else s.mstatus := by
  unfold setCsr
  by_cases hk : k = 0
  · subst hk; rfl
  · have h0 : k.toNat ≠ 0 := fun e => hk (BitVec.eq_of_toNat_eq e)
    rw [if_neg hk]
    split <;> first
      | rfl
      | (exfalso; exact h0 ‹_›)

end

/-- Everything a CSR write can do. -/
theorem writeCsr_next {k : CsrNum} {v : DWord} {s t : State} (h : writeCsr k v s = .next t) :
    (csrAllowed k s = false ∧ t = advance s) ∨
    (csrAllowed k s = true ∧ writesReservedMode k v = false ∧ t = advance (setCsr k v s)) := by
  unfold writeCsr at h
  split at h
  · split at h
    · cases h
    · right
      simp_all
  · left
    simp_all

theorem writeCsr_not_refused (k : CsrNum) (v : DWord) (s : State) (r : Refusal) : writeCsr k v s ≠ .refused r := by
  unfold writeCsr
  split
  · split <;> simp
  · simp

/-! ## Loads, stores and ports -/

/-- Everything a store instruction can do. -/
theorem store_next {w : Width} {rs2 rs1 : RegNum} {imm : Imm12} {s t : State} (h : store w rs2 rs1 imm s = .next t) :
    writable w (accessAddr w rs1 imm s) s = true ∧
      t = advance { s with
        mem := s.mem.writeBE w (accessAddr w rs1 imm s).toNat (readReg rs2 s)
        storedTo := addrInsertAll (footprint w (accessAddr w rs1 imm s).toNat) s.storedTo } := by
  unfold store at h
  cases hm : storeMem w (accessAddr w rs1 imm s) (readReg rs2 s) s with
  | error f => simp [hm] at h
  | ok u =>
    obtain ⟨h1, h2⟩ := storeMem_ok.1 hm
    simp only [hm, Host.Outcome.next.injEq] at h
    exact ⟨h1, by rw [← h, h2]⟩

/-- Everything a load instruction can do. -/
theorem load_next {w : Width} {x : Ext} {rd rs1 : RegNum} {imm : Imm12} {s t : State}
    (h : load w x rd rs1 imm s = .next t) :
    mapped w (accessAddr w rs1 imm s) s = true ∧
      t = advance (writeReg rd (extend x w (s.mem.readBE w (accessAddr w rs1 imm s).toNat)) s) := by
  unfold load at h
  cases hm : loadMem w (accessAddr w rs1 imm s) s with
  | error f => simp [hm] at h
  | ok u =>
    obtain ⟨h1, h2⟩ := loadMem_ok.1 hm
    simp only [hm, Host.Outcome.next.injEq] at h
    exact ⟨h1, by rw [← h, h2]⟩

/-- Everything a port input can do. -/
theorem portIn_next {w : Width} {x : Ext} {rd rs1 : RegNum} {imm : Imm12} {s t : State}
    (h : portIn w x rd rs1 imm s = .next t) :
    1 ≤ PrivMode.level (mode s) ∧ portPresent (accessAddr w rs1 imm s) s = true ∧
      t = advance (writeReg rd (extend x w (portAnswer w (accessAddr w rs1 imm s) s))
        (recordPort (.read (accessAddr w rs1 imm s) w) s)) := by
  unfold portIn at h
  split at h
  · cases h
  · split at h
    · exact ⟨by omega, ‹_›, by simpa using h.symm⟩
    · cases h

/-- Everything a port output can do. -/
theorem portOut_next {w : Width} {rs2 rs1 : RegNum} {imm : Imm12} {s t : State}
    (h : portOut w rs2 rs1 imm s = .next t) :
    1 ≤ PrivMode.level (mode s) ∧ portPresent (accessAddr w rs1 imm s) s = true ∧
      t = advance (recordPort (.write (accessAddr w rs1 imm s) w (lowPart w (readReg rs2 s))) s) := by
  unfold portOut at h
  split at h
  · cases h
  · split at h
    · exact ⟨by omega, ‹_›, by simpa using h.symm⟩
    · cases h

/-! ## Interrupts (R415) and the step (R12) -/

/-- Everything an instruction boundary can do. -/
theorem boundary_cases (s : State) :
    (acceptsIrq s = true ∧ pendingIrqs s = [] ∧ boundary s = (afterBoundary [] s, none)) ∨
    (∃ c rest, acceptsIrq s = true ∧ pendingIrqs s = c :: rest ∧ boundary s = (afterBoundary rest s, some c)) ∨
    (acceptsIrq s = false ∧ boundary s = (afterBoundary (pendingIrqs s) s, none)) := by
  unfold boundary
  cases ha : acceptsIrq s
  · simp
  · cases hp : pendingIrqs s <;> simp

/-- Whatever a boundary does, the state after it is `afterBoundary` of some list of requests. -/
theorem boundary_fst (s : State) : ∃ q, (boundary s).1 = afterBoundary q s := by
  rcases boundary_cases s with ⟨_, _, h⟩ | ⟨c, rest, _, _, h⟩ | ⟨_, h⟩ <;> exact ⟨_, by rw [h]⟩

/-- Everything a step can do: take an external interrupt, or run one instruction. -/
theorem step_next {s t : State} (h : step s = .next t) :
    (∃ u c, boundary s = (u, some c) ∧ trapEnter c u.pc u = .next t) ∨
    (∃ u, boundary s = (u, none) ∧ runInstruction u = .next t) := by
  unfold step at h
  rcases hb : boundary s with ⟨u, _ | c⟩
  · exact .inr ⟨u, rfl, by simpa [hb] using h⟩
  · exact .inl ⟨u, c, rfl, by simpa [hb] using h⟩

/-- Everything the running of an instruction can do. -/
theorem runInstruction_next {s t : State} (h : runInstruction s = .next t) :
    ∃ w i, fetch s = .ok w ∧ decodeWord w = .ok i ∧ i.assigned s.platform.variant = true ∧ exec i s = .next t := by
  unfold runInstruction at h
  cases hf : fetch s with
  | error f => simp [hf] at h
  | ok w =>
    simp only [hf, bytesOfWord, decode, wordOfBytes_bytes] at h
    cases hd : decodeWord w with
    | error e =>
      simp only [hd] at h
      cases e <;> simp only [rejected] at h <;> (try split at h) <;> cases h
    | ok i =>
      simp only [hd] at h
      split at h
      · exact ⟨w, i, rfl, hd, ‹_›, h⟩
      · cases h

/-! ## One inversion lemma for all instructions -/

/-- Everything an instruction can do, in shapes: write its destination (or nothing) and move IP; store; enter a trap;
return from one; write a CSR; read a CSR; a port transaction. -/
theorem exec_next {i : Instr} {s t : State} (h : exec i s = .next t) :
    (∃ rd v target, (i.dest = some rd ∨ rd = 0) ∧ (i.setsIp = false → target = s.pc + 4) ∧ i.storeWidth = none ∧
      t = setPc target (writeReg rd v s)) ∨
    (∃ w rs2 rs1 imm, i.storeWidth = some (w, rs1, imm) ∧ store w rs2 rs1 imm s = .next t) ∨
    (∃ imm, i = .int imm ∧ trapEnter (intCause imm) (s.pc + s.platform.trapRaAdjust) s = .next t) ∨
    (i = .mret ∧ mode s = .machine ∧ trapReturn s.mra s.mpriv s = .next t) ∨
    (i = .sysret ∧ 1 ≤ PrivMode.level (mode s) ∧ trapReturn s.kra s.kpriv s = .next t) ∨
    (∃ k v, i.touchesCsrs = true ∧ i.storeWidth = none ∧ writeCsr k v s = .next t) ∨
    (∃ rd k v, i = .csrr rd k ∧ t = advance (writeReg rd v { s with freeDraws := s.freeDraws + 1 })) ∨
    (∃ p rd v, i.portAccess.isSome = true ∧ (i.dest = some rd ∨ rd = 0) ∧ i.storeWidth = none ∧
      1 ≤ PrivMode.level (mode s) ∧ t = advance (writeReg rd v (recordPort p s))) := by
  cases i
  case stb rs2 rs1 imm => exact .inr (.inl ⟨_, _, _, _, rfl, h⟩)
  case stw rs2 rs1 imm => exact .inr (.inl ⟨_, _, _, _, rfl, h⟩)
  case std rs2 rs1 imm => exact .inr (.inl ⟨_, _, _, _, rfl, h⟩)
  case stq => cases h
  case ldq => cases h
  case ldsd => cases h
  case ldb => exact .inl ⟨_, _, _, .inl rfl, fun _ => by simp, rfl, (load_next h).2⟩
  case ldw => exact .inl ⟨_, _, _, .inl rfl, fun _ => by simp, rfl, (load_next h).2⟩
  case ldd => exact .inl ⟨_, _, _, .inl rfl, fun _ => by simp, rfl, (load_next h).2⟩
  case ldsb => exact .inl ⟨_, _, _, .inl rfl, fun _ => by simp, rfl, (load_next h).2⟩
  case ldsw => exact .inl ⟨_, _, _, .inl rfl, fun _ => by simp, rfl, (load_next h).2⟩
  case int imm => exact .inr (.inr (.inl ⟨imm, rfl, h⟩))
  case mret =>
    simp only [exec, execMret] at h
    split at h
    · exact .inr (.inr (.inr (.inl ⟨rfl, ‹_›, h⟩)))
    · cases h
  case sysret =>
    simp only [exec, execSysret] at h
    split at h
    · cases h
    · exact .inr (.inr (.inr (.inr (.inl ⟨rfl, by omega, h⟩))))
  case csrw => exact .inr (.inr (.inr (.inr (.inr (.inl ⟨_, _, rfl, rfl, h⟩)))))
  case csrr =>
    simp only [exec, execCsrr, Host.Outcome.next.injEq] at h
    exact .inr (.inr (.inr (.inr (.inr (.inr (.inl ⟨_, _, _, rfl, h.symm⟩))))))
  case csrs =>
    simp only [exec, execCsrs] at h
    split at h
    · exact .inr (.inr (.inr (.inr (.inr (.inl ⟨_, _, rfl, rfl, h⟩)))))
    · cases h; exact .inl ⟨0, 0, _, .inr rfl, fun _ => by simp, rfl, rfl⟩
  case csrc =>
    simp only [exec, execCsrc] at h
    split at h
    · exact .inr (.inr (.inr (.inr (.inr (.inl ⟨_, _, rfl, rfl, h⟩)))))
    · cases h; exact .inl ⟨0, 0, _, .inr rfl, fun _ => by simp, rfl, rfl⟩
  case outb =>
    obtain ⟨h1, _, h2⟩ := portOut_next h
    exact .inr (.inr (.inr (.inr (.inr (.inr (.inr ⟨_, 0, 0, rfl, .inr rfl, rfl, h1, h2⟩))))))
  case outw =>
    obtain ⟨h1, _, h2⟩ := portOut_next h
    exact .inr (.inr (.inr (.inr (.inr (.inr (.inr ⟨_, 0, 0, rfl, .inr rfl, rfl, h1, h2⟩))))))
  case outd =>
    obtain ⟨h1, _, h2⟩ := portOut_next h
    exact .inr (.inr (.inr (.inr (.inr (.inr (.inr ⟨_, 0, 0, rfl, .inr rfl, rfl, h1, h2⟩))))))
  case inb rd _ _ =>
    obtain ⟨h1, _, h2⟩ := portIn_next h
    exact .inr (.inr (.inr (.inr (.inr (.inr (.inr ⟨_, rd, _, rfl, .inl rfl, rfl, h1, h2⟩))))))
  case inw rd _ _ =>
    obtain ⟨h1, _, h2⟩ := portIn_next h
    exact .inr (.inr (.inr (.inr (.inr (.inr (.inr ⟨_, rd, _, rfl, .inl rfl, rfl, h1, h2⟩))))))
  case ind rd _ _ =>
    obtain ⟨h1, _, h2⟩ := portIn_next h
    exact .inr (.inr (.inr (.inr (.inr (.inr (.inr ⟨_, rd, _, rfl, .inl rfl, rfl, h1, h2⟩))))))
  case insb rd _ _ =>
    obtain ⟨h1, _, h2⟩ := portIn_next h
    exact .inr (.inr (.inr (.inr (.inr (.inr (.inr ⟨_, rd, _, rfl, .inl rfl, rfl, h1, h2⟩))))))
  case insw rd _ _ =>
    obtain ⟨h1, _, h2⟩ := portIn_next h
    exact .inr (.inr (.inr (.inr (.inr (.inr (.inr ⟨_, rd, _, rfl, .inl rfl, rfl, h1, h2⟩))))))
  case jeq =>
    simp only [exec, execJeq, condJump] at h
    split at h <;> cases h <;> exact .inl ⟨0, 0, _, .inr rfl, nofun, rfl, rfl⟩
  case jlt =>
    simp only [exec, execJlt, condJump] at h
    split at h <;> cases h <;> exact .inl ⟨0, 0, _, .inr rfl, nofun, rfl, rfl⟩
  case jslt =>
    simp only [exec, execJslt, condJump] at h
    split at h <;> cases h <;> exact .inl ⟨0, 0, _, .inr rfl, nofun, rfl, rfl⟩
  case jne =>
    simp only [exec, execJne, condJump] at h
    split at h <;> cases h <;> exact .inl ⟨0, 0, _, .inr rfl, nofun, rfl, rfl⟩
  case jge =>
    simp only [exec, execJge, condJump] at h
    split at h <;> cases h <;> exact .inl ⟨0, 0, _, .inr rfl, nofun, rfl, rfl⟩
  case jsge =>
    simp only [exec, execJsge, condJump] at h
    split at h <;> cases h <;> exact .inl ⟨0, 0, _, .inr rfl, nofun, rfl, rfl⟩
  case jal => cases h; exact .inl ⟨_, _, _, .inl rfl, nofun, rfl, rfl⟩
  case jalr => cases h; exact .inl ⟨_, _, _, .inl rfl, nofun, rfl, rfl⟩
  all_goals
    cases h
    exact .inl ⟨_, _, _, .inl rfl, fun _ => by simp, rfl, rfl⟩

end Sys2Proof.Machine
end

