-- ==== Sys2Proof/Laws/PerInstr.lean ====
section
/-! SUPPORT. Families of statements about every instruction as syntax, one lemma per constructor. -/

namespace Sys2Proof.Laws

/-- The opcode, the fn4 (and for SYSRET and MRET the fn7) of the word an instruction encodes to are those of its row of
spec/opcode_table.json. -/
def EncodesRow.Statement (i : Instr) : Prop := encode i &&& tableMask i = tableMatch i

/-- A word whose fields under a mask are fixed. -/
theorem and_mask_of_slices {w mask m : DWord}
    (h : ∀ k < 32, (w.getLsbD k && mask.getLsbD k) = m.getLsbD k) : w &&& mask = m := by
  apply BitVec.eq_of_getLsbD_eq
  intro k hk
  rw [BitVec.getLsbD_and, h k hk]

theorem mask_DSS (op : BitVec 6) (rd rs1 : BitVec 5) (fn4 : BitVec 4) (rs2 : BitVec 5) (fn7 : BitVec 7) :
    packDSS op rd rs1 fn4 rs2 fn7 &&& 0xFC00F000 = packDSS op 0 0 fn4 0 0 := by
  apply and_mask_of_slices
  intro k hk
  simp only [packDSS, BitVec.getLsbD_append]
  interval_cases k <;> simp

theorem mask_DSI (op : BitVec 6) (rd rs1 : BitVec 5) (fn4 : BitVec 4) (imm : Imm12) :
    packDSI op rd rs1 fn4 imm &&& 0xFC00F000 = packDSI op 0 0 fn4 0 := by
  apply and_mask_of_slices
  intro k hk
  simp only [packDSI, BitVec.getLsbD_append]
  interval_cases k <;> simp

theorem mask_SSI (op : BitVec 6) (rs1 : BitVec 5) (fn4 : BitVec 4) (rs2 : BitVec 5) (imm : Imm12) :
    packSSI op rs1 fn4 rs2 imm &&& 0xFC00F000 = packSSI op 0 fn4 0 0 := by
  apply and_mask_of_slices
  intro k hk
  simp only [packSSI, BitVec.getLsbD_append]
  interval_cases k <;> simp

theorem mask_DI (op : BitVec 6) (rd : BitVec 5) (imm : Imm21) :
    packDI op rd imm &&& 0xFC000000 = packDI op 0 0 := by
  apply and_mask_of_slices
  intro k hk
  simp only [packDI, BitVec.getLsbD_append]
  interval_cases k <;> simp

theorem EncodesRow.add (rd rs1 rs2 : RegNum) : EncodesRow.Statement (.add rd rs1 rs2) := (mask_DSS ..).trans rfl
theorem EncodesRow.sub (rd rs1 rs2 : RegNum) : EncodesRow.Statement (.sub rd rs1 rs2) := (mask_DSS ..).trans rfl
theorem EncodesRow.and (rd rs1 rs2 : RegNum) : EncodesRow.Statement (.and rd rs1 rs2) := (mask_DSS ..).trans rfl
theorem EncodesRow.or (rd rs1 rs2 : RegNum) : EncodesRow.Statement (.or rd rs1 rs2) := (mask_DSS ..).trans rfl
theorem EncodesRow.xor (rd rs1 rs2 : RegNum) : EncodesRow.Statement (.xor rd rs1 rs2) := (mask_DSS ..).trans rfl
theorem EncodesRow.shr (rd rs1 rs2 : RegNum) : EncodesRow.Statement (.shr rd rs1 rs2) := (mask_DSS ..).trans rfl
theorem EncodesRow.asr (rd rs1 rs2 : RegNum) : EncodesRow.Statement (.asr rd rs1 rs2) := (mask_DSS ..).trans rfl
theorem EncodesRow.shl (rd rs1 rs2 : RegNum) : EncodesRow.Statement (.shl rd rs1 rs2) := (mask_DSS ..).trans rfl
theorem EncodesRow.cch (rd rs1 rs2 : RegNum) : EncodesRow.Statement (.cch rd rs1 rs2) := (mask_DSS ..).trans rfl
theorem EncodesRow.bch (rd rs1 rs2 : RegNum) : EncodesRow.Statement (.bch rd rs1 rs2) := (mask_DSS ..).trans rfl
theorem EncodesRow.addi (rd rs1 : RegNum) (imm : Imm12) : EncodesRow.Statement (.addi rd rs1 imm) := (mask_DSI ..).trans rfl
theorem EncodesRow.andi (rd rs1 : RegNum) (imm : Imm12) : EncodesRow.Statement (.andi rd rs1 imm) := (mask_DSI ..).trans rfl
theorem EncodesRow.ori (rd rs1 : RegNum) (imm : Imm12) : EncodesRow.Statement (.ori rd rs1 imm) := (mask_DSI ..).trans rfl
theorem EncodesRow.xori (rd rs1 : RegNum) (imm : Imm12) : EncodesRow.Statement (.xori rd rs1 imm) := (mask_DSI ..).trans rfl
theorem EncodesRow.shri (rd rs1 : RegNum) (imm : Imm12) : EncodesRow.Statement (.shri rd rs1 imm) := (mask_DSI ..).trans rfl
theorem EncodesRow.asri (rd rs1 : RegNum) (imm : Imm12) : EncodesRow.Statement (.asri rd rs1 imm) := (mask_DSI ..).trans rfl
theorem EncodesRow.shli (rd rs1 : RegNum) (imm : Imm12) : EncodesRow.Statement (.shli rd rs1 imm) := (mask_DSI ..).trans rfl
theorem EncodesRow.cchi (rd rs1 : RegNum) (imm : Imm12) : EncodesRow.Statement (.cchi rd rs1 imm) := (mask_DSI ..).trans rfl
theorem EncodesRow.bchi (rd rs1 : RegNum) (imm : Imm12) : EncodesRow.Statement (.bchi rd rs1 imm) := (mask_DSI ..).trans rfl
theorem EncodesRow.lui (rd : RegNum) (imm : Imm21) : EncodesRow.Statement (.lui rd imm) := (mask_DI ..).trans rfl
theorem EncodesRow.stb (rs2 rs1 : RegNum) (imm : Imm12) : EncodesRow.Statement (.stb rs2 rs1 imm) := (mask_SSI ..).trans rfl
theorem EncodesRow.stw (rs2 rs1 : RegNum) (imm : Imm12) : EncodesRow.Statement (.stw rs2 rs1 imm) := (mask_SSI ..).trans rfl
theorem EncodesRow.std (rs2 rs1 : RegNum) (imm : Imm12) : EncodesRow.Statement (.std rs2 rs1 imm) := (mask_SSI ..).trans rfl
theorem EncodesRow.stq (rs2 rs1 : RegNum) (imm : Imm12) : EncodesRow.Statement (.stq rs2 rs1 imm) := (mask_SSI ..).trans rfl
theorem EncodesRow.ldb (rd rs1 : RegNum) (imm : Imm12) : EncodesRow.Statement (.ldb rd rs1 imm) := (mask_DSI ..).trans rfl
theorem EncodesRow.ldw (rd rs1 : RegNum) (imm : Imm12) : EncodesRow.Statement (.ldw rd rs1 imm) := (mask_DSI ..).trans rfl
theorem EncodesRow.ldd (rd rs1 : RegNum) (imm : Imm12) : EncodesRow.Statement (.ldd rd rs1 imm) := (mask_DSI ..).trans rfl
theorem EncodesRow.ldsb (rd rs1 : RegNum) (imm : Imm12) : EncodesRow.Statement (.ldsb rd rs1 imm) := (mask_DSI ..).trans rfl
theorem EncodesRow.ldsw (rd rs1 : RegNum) (imm : Imm12) : EncodesRow.Statement (.ldsw rd rs1 imm) := (mask_DSI ..).trans rfl
theorem EncodesRow.ldq (rd rs1 : RegNum) (imm : Imm12) : EncodesRow.Statement (.ldq rd rs1 imm) := (mask_DSI ..).trans rfl
theorem EncodesRow.ldsd (rd rs1 : RegNum) (imm : Imm12) : EncodesRow.Statement (.ldsd rd rs1 imm) := (mask_DSI ..).trans rfl
theorem EncodesRow.jal (rd : RegNum) (imm : Imm21) : EncodesRow.Statement (.jal rd imm) := (mask_DI ..).trans rfl
theorem EncodesRow.jalr (rd rs1 : RegNum) (imm : Imm12) : EncodesRow.Statement (.jalr rd rs1 imm) := (mask_DSI ..).trans rfl
theorem EncodesRow.jeq (rs1 rs2 : RegNum) (imm : Imm12) : EncodesRow.Statement (.jeq rs1 rs2 imm) := (mask_SSI ..).trans rfl
theorem EncodesRow.jlt (rs1 rs2 : RegNum) (imm : Imm12) : EncodesRow.Statement (.jlt rs1 rs2 imm) := (mask_SSI ..).trans rfl
theorem EncodesRow.jslt (rs1 rs2 : RegNum) (imm : Imm12) : EncodesRow.Statement (.jslt rs1 rs2 imm) := (mask_SSI ..).trans rfl
theorem EncodesRow.jne (rs1 rs2 : RegNum) (imm : Imm12) : EncodesRow.Statement (.jne rs1 rs2 imm) := (mask_SSI ..).trans rfl
theorem EncodesRow.jge (rs1 rs2 : RegNum) (imm : Imm12) : EncodesRow.Statement (.jge rs1 rs2 imm) := (mask_SSI ..).trans rfl
theorem EncodesRow.jsge (rs1 rs2 : RegNum) (imm : Imm12) : EncodesRow.Statement (.jsge rs1 rs2 imm) := (mask_SSI ..).trans rfl
theorem EncodesRow.int (imm : Imm21) : EncodesRow.Statement (.int imm) := (mask_DI ..).trans rfl
theorem EncodesRow.sysret : EncodesRow.Statement .sysret := by unfold EncodesRow.Statement; decide
theorem EncodesRow.mret : EncodesRow.Statement .mret := by unfold EncodesRow.Statement; decide
theorem EncodesRow.csrw (rs1 : RegNum) (csr : CsrNum) : EncodesRow.Statement (.csrw rs1 csr) := (mask_DSI ..).trans rfl
theorem EncodesRow.csrr (rd : RegNum) (csr : CsrNum) : EncodesRow.Statement (.csrr rd csr) := (mask_DSI ..).trans rfl
theorem EncodesRow.csrs (csr : CsrNum) (pos : BitPos) : EncodesRow.Statement (.csrs csr pos) := (mask_DSI ..).trans rfl
theorem EncodesRow.csrc (csr : CsrNum) (pos : BitPos) : EncodesRow.Statement (.csrc csr pos) := (mask_DSI ..).trans rfl
theorem EncodesRow.inb (rd rs1 : RegNum) (imm : Imm12) : EncodesRow.Statement (.inb rd rs1 imm) := (mask_DSI ..).trans rfl
theorem EncodesRow.inw (rd rs1 : RegNum) (imm : Imm12) : EncodesRow.Statement (.inw rd rs1 imm) := (mask_DSI ..).trans rfl
theorem EncodesRow.ind (rd rs1 : RegNum) (imm : Imm12) : EncodesRow.Statement (.ind rd rs1 imm) := (mask_DSI ..).trans rfl
theorem EncodesRow.insb (rd rs1 : RegNum) (imm : Imm12) : EncodesRow.Statement (.insb rd rs1 imm) := (mask_DSI ..).trans rfl
theorem EncodesRow.insw (rd rs1 : RegNum) (imm : Imm12) : EncodesRow.Statement (.insw rd rs1 imm) := (mask_DSI ..).trans rfl
theorem EncodesRow.outb (rs2 rs1 : RegNum) (imm : Imm12) : EncodesRow.Statement (.outb rs2 rs1 imm) := (mask_SSI ..).trans rfl
theorem EncodesRow.outw (rs2 rs1 : RegNum) (imm : Imm12) : EncodesRow.Statement (.outw rs2 rs1 imm) := (mask_SSI ..).trans rfl
theorem EncodesRow.outd (rs2 rs1 : RegNum) (imm : Imm12) : EncodesRow.Statement (.outd rs2 rs1 imm) := (mask_SSI ..).trans rfl
theorem EncodesRow.mul (rd rs1 rs2 : RegNum) : EncodesRow.Statement (.mul rd rs1 rs2) := (mask_DSS ..).trans rfl
theorem EncodesRow.smul (rd rs1 rs2 : RegNum) : EncodesRow.Statement (.smul rd rs1 rs2) := (mask_DSS ..).trans rfl
theorem EncodesRow.mulh (rd rs1 rs2 : RegNum) : EncodesRow.Statement (.mulh rd rs1 rs2) := (mask_DSS ..).trans rfl
theorem EncodesRow.smulh (rd rs1 rs2 : RegNum) : EncodesRow.Statement (.smulh rd rs1 rs2) := (mask_DSS ..).trans rfl
theorem EncodesRow.div (rd rs1 rs2 : RegNum) : EncodesRow.Statement (.div rd rs1 rs2) := (mask_DSS ..).trans rfl
theorem EncodesRow.sdiv (rd rs1 rs2 : RegNum) : EncodesRow.Statement (.sdiv rd rs1 rs2) := (mask_DSS ..).trans rfl
theorem EncodesRow.mod (rd rs1 rs2 : RegNum) : EncodesRow.Statement (.mod rd rs1 rs2) := (mask_DSS ..).trans rfl
theorem EncodesRow.smod (rd rs1 rs2 : RegNum) : EncodesRow.Statement (.smod rd rs1 rs2) := (mask_DSS ..).trans rfl

end Sys2Proof.Laws
end

