-- ==== Sys2Proof/Laws/Pseudo.lean ====
section
/-! SUPPORT. What the assembler accepts (spec/30_encoding.md R113): how long a run of PUSHes or POPs may be. -/

namespace Sys2Proof.Machine

theorem asmImm12_isSome (n : Int) : (asmImm12 n).isSome = true ↔ -2048 ≤ n ∧ n ≤ 2047 := by
  unfold asmImm12
  split <;> simp_all

theorem pushStores_isSome (x : Nat) (rs : List RegNum) :
    (pushStores x rs).isSome = true ↔ rs = [] ∨ x + rs.length ≤ 512 := by
  induction rs generalizing x with
  | nil => simp [pushStores]
  | cons r rs ih =>
    have step : (pushStores x (r :: rs)).isSome = true ↔
        (asmImm12 (-4 * (x + 1))).isSome = true ∧ (pushStores (x + 1) rs).isSome = true := by
      rw [pushStores]
      cases asmImm12 (-4 * (x + 1)) <;> cases pushStores (x + 1) rs <;> simp
    rw [step, asmImm12_isSome, ih, List.length_cons, ← List.length_eq_zero_iff]
    simp only [reduceCtorEq, false_or]
    omega

theorem popLoads_isSome (x : Nat) (rds : List RegNum) :
    (popLoads x rds).isSome = true ↔ rds = [] ∨ x + rds.length ≤ 512 := by
  induction rds generalizing x with
  | nil => simp [popLoads]
  | cons r rds ih =>
    have step : (popLoads x (r :: rds)).isSome = true ↔
        (asmImm12 (4 * x)).isSome = true ∧ (popLoads (x + 1) rds).isSome = true := by
      rw [popLoads]
      cases asmImm12 (4 * x) <;> cases popLoads (x + 1) rds <;> simp
    rw [step, asmImm12_isSome, ih, List.length_cons, ← List.length_eq_zero_iff]
    simp only [reduceCtorEq, false_or]
    omega

theorem thenMoveSp_isSome (run : Option (List Instr)) (n : Int) :
    (thenMoveSp run n).isSome = true ↔ run.isSome = true ∧ -2048 ≤ n ∧ n ≤ 2047 := by
  rw [← asmImm12_isSome]
  unfold thenMoveSp
  cases run <;> cases asmImm12 n <;> simp

/-- PUSH assembles for runs of up to 512 registers. -/
theorem expandMacro_push_isSome (rs : List RegNum) : (expandMacro (.push rs)).isSome = true ↔ rs.length ≤ 512 := by
  rw [expandMacro, thenMoveSp_isSome, pushStores_isSome, ← List.length_eq_zero_iff]
  omega

/-- POP assembles for runs of up to 511 registers. -/
theorem expandMacro_pop_isSome (rds : List RegNum) : (expandMacro (.pop rds)).isSome = true ↔ rds.length ≤ 511 := by
  rw [expandMacro, thenMoveSp_isSome, popLoads_isSome, ← List.length_eq_zero_iff]
  omega

end Sys2Proof.Machine
end

