-- ==== Sys2Proof/Laws/Shapes.lean ====
section
/-! SUPPORT. The shapes of a completed instruction, said once for the shared operations; the stops of the shared
operations; immediates, addresses and extensions as numbers. -/

namespace Sys2Proof.Machine

/-! ## Completion shapes -/

theorem sameCsrs_refl (s : State) : SameCsrs s s := ⟨rfl, ⟨rfl, rfl, rfl, rfl⟩, rfl, rfl, rfl, rfl, rfl⟩

theorem sameCsrs_writeReg (rd : RegNum) (v target : DWord) (s : State) : SameCsrs s (setPc target (writeReg rd v s)) := by
  refine ⟨by simp, ⟨by simp, by simp, by simp, by simp⟩, by simp, by simp, by simp, by simp, by simp⟩

theorem writesAndJumps_writeReg (rd : RegNum) (v target : DWord) (s : State) :
    WritesAndJumps rd v target s (setPc target (writeReg rd v s)) := by
  refine ⟨?_, rfl, ?_, sameCsrs_writeReg .., ⟨fun a => by simp, by simp⟩, by simp, by simp, by simp, by simp, by simp⟩
  · rw [readReg_setPc, readReg_writeReg_same]
  · intro r hr
    rw [readReg_setPc, readReg_writeReg_other _ _ (by simpa using hr)]

/-- An instruction whose meaning writes one register and advances completes so. -/
theorem completesWith_of {i : Instr} {rd : RegNum} {v : DWord} {s : State}
    (h : exec i s = .next (advance (writeReg rd v s))) : CompletesWith i rd v s :=
  ⟨_, h, by simpa [advance] using writesAndJumps_writeReg rd v (s.pc + 4) s⟩

theorem onlyMoved_setPc (target : DWord) (s : State) : OnlyMoved target s (setPc target s) :=
  ⟨rfl, fun _ _ => rfl, sameCsrs_refl s, ⟨fun _ => rfl, rfl⟩, rfl, rfl, rfl, rfl, rfl⟩

/-- A store where there is RAM completes. -/
theorem store_of_writable {w : Width} (rs2 : RegNum) {rs1 : RegNum} {imm : Imm12} {s : State}
    (h : writable w (accessAddr w rs1 imm s) s = true) :
    store w rs2 rs1 imm s = .next (advance { s with
      mem := s.mem.writeBE w (accessAddr w rs1 imm s).toNat (readReg rs2 s)
      storedTo := addrInsertAll (footprint w (accessAddr w rs1 imm s).toNat) s.storedTo }) := by
  unfold store
  rw [storeMem_ok.2 ⟨h, rfl⟩]

theorem onlyStores_writeBE (w : Width) (a v : DWord) (s : State) :
    OnlyStores (footprint w a.toNat) s (advance { s with
      mem := s.mem.writeBE w a.toNat v
      storedTo := addrInsertAll (footprint w a.toNat) s.storedTo }) :=
  ⟨fun _ hb => Memory.read_writeBE_other _ _ _ _ hb, fun _ => mem_addrInsertAll, rfl, fun _ _ => rfl, sameCsrs_refl s,
    rfl, rfl, rfl, rfl, rfl⟩

/-- A load where there is memory completes. -/
theorem load_of_mapped {w : Width} (x : Ext) (rd : RegNum) {rs1 : RegNum} {imm : Imm12} {s : State}
    (h : mapped w (accessAddr w rs1 imm s) s = true) :
    load w x rd rs1 imm s =
      .next (advance (writeReg rd (extend x w (s.mem.readBE w (accessAddr w rs1 imm s).toNat)) s)) := by
  unfold load
  rw [loadMem_ok.2 ⟨h, rfl⟩]

theorem transacts_recordPort (p : PortAccess) (rd : RegNum) (v : DWord) (s : State) :
    Transacts p rd v s (advance (writeReg rd v (recordPort p s))) := by
  refine ⟨by simp, ?_, by simp, ?_, sameCsrs_writeReg rd v _ (recordPort p s), ⟨fun _ => by simp, by simp⟩, by simp,
    by simp, by simp, by simp⟩
  · rw [readReg_advance, readReg_writeReg_same]
  · intro r hr
    rw [readReg_advance, readReg_writeReg_other _ _ (by simpa using hr)]
    rfl

theorem sameStatusButMode_setMode (m : PrivMode) (s : State) : SameStatusButMode s (setMode m s) := by
  intro k h1 h2
  rw [setMode_mstatus_bit]
  simp [h1, h2]

theorem entersKernel_enterFromUser (c ra : DWord) (s : State) : EntersKernel c ra s (enterFromUser c ra s) :=
  ⟨rfl, rfl, rfl, rfl, mode_enterFromUser .., rfl, rfl, sameStatusButMode_setMode .kernel s, ⟨rfl, rfl, rfl, rfl⟩,
    fun _ _ => rfl, ⟨fun _ => rfl, rfl⟩, rfl, rfl, rfl, rfl, rfl⟩

theorem entersMachine_enterFromKernel (c ra : DWord) (s : State) : EntersMachine c ra 1 s (enterFromKernel c ra s) :=
  ⟨rfl, rfl, rfl, rfl, mode_enterFromKernel .., rfl, sameStatusButMode_setMode .machine s, ⟨rfl, rfl, rfl, rfl, rfl⟩,
    fun _ _ => rfl, ⟨fun _ => rfl, rfl⟩, rfl, rfl, rfl, rfl, rfl⟩

theorem entersMachine_enterFromMachine (c ra : DWord) {s : State} (h : mode s = .machine) :
    EntersMachine c ra s.mpriv s (enterFromMachine c ra s) :=
  ⟨rfl, rfl, rfl, rfl, h, rfl, fun _ _ _ => rfl, ⟨rfl, rfl, rfl, rfl, rfl⟩, fun _ _ => rfl, ⟨fun _ => rfl, rfl⟩, rfl,
    rfl, rfl, rfl, rfl⟩

/-! ## Levels as numbers -/

/-- The level in bits 1:0 of a saved-mode CSR. -/
theorem savedMode_level (v : DWord) : (savedMode v).level = v.toNat % 4 := by
  have h : (v.extractLsb' 0 2).toNat = v.toNat % 4 := by
    rw [BitVec.extractLsb'_toNat, Nat.shiftRight_zero]
  have level : ∀ b : BitVec 2, (PrivMode.ofBits b).level = b.toNat := by decide
  rw [savedMode, level, h]

/-- The level in bits 2:1 of `mstatus`. -/
theorem modeField_level (v : DWord) : (modeField v).level = v.toNat / 2 % 4 := by
  have h : (v.extractLsb' 1 2).toNat = v.toNat / 2 % 4 := by
    rw [BitVec.extractLsb'_toNat, Nat.shiftRight_eq_div_pow]
  have level : ∀ b : BitVec 2, (PrivMode.ofBits b).level = b.toNat := by decide
  rw [modeField, level, h]

/-! ## Stops of the shared operations -/

theorem store_fault {w : Width} {rs2 rs1 : RegNum} {imm : Imm12} {s : State} {f : Fault}
    (h : store w rs2 rs1 imm s = .fault f) :
    (f = .unmappedAddress ∧ mapped w (accessAddr w rs1 imm s) s = false) ∨
      (f = .storeToRom ∧ mapped w (accessAddr w rs1 imm s) s = true ∧ writable w (accessAddr w rs1 imm s) s = false) := by
  unfold store at h
  split at h
  · cases h
  · rename_i hh
    cases h
    exact storeMem_error.1 hh

theorem load_fault {w : Width} {x : Ext} {rd rs1 : RegNum} {imm : Imm12} {s : State} {f : Fault}
    (h : load w x rd rs1 imm s = .fault f) : f = .unmappedAddress ∧ mapped w (accessAddr w rs1 imm s) s = false := by
  unfold load at h
  split at h
  · cases h
  · rename_i hh
    cases h
    exact (loadMem_error.1 hh).symm

theorem trapEnter_fault {c ra : DWord} {s : State} {f : Fault} (h : trapEnter c ra s = .fault f) :
    f = .reservedPrivilege ∧ mode s = .reserved := by
  unfold trapEnter at h
  split at h <;> cases h
  exact ⟨rfl, ‹_›⟩

theorem trapReturn_fault {ra v : DWord} {s : State} {f : Fault} (h : trapReturn ra v s = .fault f) :
    f = .reservedPrivilege ∧ savedMode v = .reserved := by
  unfold trapReturn at h
  split at h <;> cases h
  exact ⟨rfl, ‹_›⟩

theorem writeCsr_fault {k : CsrNum} {v : DWord} {s : State} {f : Fault} (h : writeCsr k v s = .fault f) :
    f = .reservedPrivilege ∧ csrAllowed k s = true ∧ writesReservedMode k v = true := by
  unfold writeCsr at h
  split at h
  · split at h <;> cases h
    exact ⟨rfl, ‹_›, ‹_›⟩
  · cases h

/-! ## Immediates and addresses as numbers -/

theorem add_sext12 (a : DWord) (imm : Imm12) : a + sext12 imm = BitVec.ofInt 32 (a.toNat + imm.toInt) := by
  rw [show sext12 imm = BitVec.ofInt 32 imm.toInt from rfl, BitVec.ofInt_add]
  congr 1
  simp

theorem add_sext21 (a : DWord) (imm : Imm21) : a + sext21 imm = BitVec.ofInt 32 (a.toNat + imm.toInt) := by
  rw [show sext21 imm = BitVec.ofInt 32 imm.toInt from rfl, BitVec.ofInt_add]
  congr 1
  simp

theorem effAddr_toNat (rs1 : RegNum) (imm : Imm12) (s : State) : (effAddr rs1 imm s).toNat = baseSum rs1 imm s := by
  unfold effAddr
  rw [add_sext12, BitVec.toNat_ofInt]
  rfl

theorem accessAddr_byte (rs1 : RegNum) (imm : Imm12) (s : State) :
    (accessAddr .byte rs1 imm s).toNat = baseSum rs1 imm s := effAddr_toNat ..

theorem accessAddr_word (rs1 : RegNum) (imm : Imm12) (s : State) :
    (accessAddr .word rs1 imm s).toNat = baseSum rs1 imm s / 2 * 2 := by
  unfold accessAddr
  rw [alignTo_word_toNat, effAddr_toNat]

theorem accessAddr_dword (rs1 : RegNum) (imm : Imm12) (s : State) :
    (accessAddr .dword rs1 imm s).toNat = baseSum rs1 imm s / 4 * 4 := by
  unfold accessAddr
  rw [alignTo_dword_toNat, effAddr_toNat]

/-- A field of a value, as a number. -/
theorem slice_toNat (v : DWord) (lo len : Nat) : (v.extractLsb' lo len).toNat = v.toNat / 2 ^ lo % 2 ^ len := by
  rw [BitVec.extractLsb'_toNat, Nat.shiftRight_eq_div_pow]

end Sys2Proof.Machine
end

