-- ==== Sys2Proof/Tests/Slice0.lean ====
section
/-! SUPPORT. The author's own tests: ill-formed terms, words of the spec decoded, one step per instruction on the spec's
vectors (spec/95_test_vectors.md, or the example of the rule named), and for each obligation with hypotheses a state and
operands that meet them. -/

namespace Sys2Proof.Tests

open Sys2Proof.Machine

/-! ## Helpers -/

/-- What an observation sees of a next state. -/
def after {α : Type} (r : Result) (f : State → α) : Option α :=
  match r with
  | .next t => some (f t)
  | _ => none

/-- The fault a result is. -/
def faultOf : Result → Option Fault
  | .fault f => some f
  | _ => none

/-- The refusal a result is. -/
def refusalOf : Result → Option Refusal
  | .refused r => some r
  | _ => none

theorem next_of_after {α : Type} {r : Result} {f : State → α} {x : α} (h : after r f = some x) : ∃ t, r = .next t := by
  cases r <;> simp [after] at h ⊢

theorem fault_of {r : Result} {f : Fault} (h : faultOf r = some f) : r = .fault f := by
  cases r <;> simp [faultOf] at h ⊢
  exact h

/-- IP 0x100, the level given, r8 and r9 as given, the rest as after reset. -/
def at100 (m : PrivMode) (a b : DWord) : State :=
  setMode m (writeReg 8 a (writeReg 9 b { State.reset with pc := 0x100 }))

/-- Machine level. -/
def st (a b : DWord) : State := at100 .machine a b

/-- `st` with the memory of spec/95 2.3: 11 22 33 44 80 01 FF 7F at 0x1000. -/
def stMem : State :=
  { st 0x1000 0xAABBCCDD with
    mem := [(0x1000, 0x11), (0x1001, 0x22), (0x1002, 0x33), (0x1003, 0x44), (0x1004, 0x80), (0x1005, 0x01),
      (0x1006, 0xFF), (0x1007, 0x7F)] }

/-- A word placed at IP 0 after reset. -/
def placed (word : Nat) : State := State.reset.withFetchWord 32 word

/-- `r7` and IP. -/
def r7pc (t : State) : DWord × DWord := (readReg 7 t, t.pc)

/-- Two bytes of memory. -/
def two (a : Nat) (t : State) : Byte × Byte := (t.mem.read a, t.mem.read (a + 1))

/-! ## Ill-formed instructions -/

theorem test_ill_formed_srm64 : Instr.wellFormed (.stq 9 8 0) = false ∧ Instr.wellFormed (.ldq 7 8 0) = false ∧
    Instr.wellFormed (.ldsd 7 8 0) = false := by decide

theorem test_ill_formed_without_m : Instr.assigned { Config.srm32sm with hasM := false } (.mul 7 8 9) = false ∧
    Instr.wellFormed (.mul 7 8 9) = true := by decide

theorem test_ill_formed_without_s : Instr.assigned { Config.srm32sm with hasS := false } .mret = false ∧
    Instr.wellFormed .mret = true := by decide

/-- R322: register 16 does not exist with H; a CSRS position that looks like register 16 is a literal. -/
theorem test_ill_formed_register_16 : Instr.assigned { Config.srm32sm with hasH := true } (.add 16 8 9) = false ∧
    Instr.assigned { Config.srm32sm with hasH := true } (.add 15 8 9) = true ∧
    Instr.assigned { Config.srm32sm with hasH := true } (.csrs 0 16) = true := by decide

/-! ## Decoding: a word of the spec for every constructor -/

theorem test_decode_regArith :
    decodeTableWord 32 0x00E80480 = some (.add 7 8 9) ∧
    decodeTableWord 32 0x00E81480 = some (.sub 7 8 9) ∧
    decodeTableWord 32 0x00E82480 = some (.and 7 8 9) ∧
    decodeTableWord 32 0x00E83480 = some (.or 7 8 9) ∧
    decodeTableWord 32 0x00E84480 = some (.xor 7 8 9) ∧
    decodeTableWord 32 0x00E85480 = some (.shr 7 8 9) ∧
    decodeTableWord 32 0x00E86480 = some (.asr 7 8 9) ∧
    decodeTableWord 32 0x00E87480 = some (.shl 7 8 9) ∧
    decodeTableWord 32 0x00E88480 = some (.cch 7 8 9) ∧
    decodeTableWord 32 0x00E89480 = some (.bch 7 8 9) := by decide

theorem test_encode_regArith :
    encode (.add 7 8 9) = 0x00E80480 ∧
    encode (.sub 7 8 9) = 0x00E81480 ∧
    encode (.and 7 8 9) = 0x00E82480 ∧
    encode (.or 7 8 9) = 0x00E83480 ∧
    encode (.xor 7 8 9) = 0x00E84480 ∧
    encode (.shr 7 8 9) = 0x00E85480 ∧
    encode (.asr 7 8 9) = 0x00E86480 ∧
    encode (.shl 7 8 9) = 0x00E87480 ∧
    encode (.cch 7 8 9) = 0x00E88480 ∧
    encode (.bch 7 8 9) = 0x00E89480 := by decide

theorem test_decode_immArith :
    decodeTableWord 32 0x04E80800 = some (.addi 7 8 (-2048)) ∧
    decodeTableWord 32 0x04E82FF0 = some (.andi 7 8 (-16)) ∧
    decodeTableWord 32 0x04E83001 = some (.ori 7 8 1) ∧
    decodeTableWord 32 0x04E84555 = some (.xori 7 8 1365) ∧
    decodeTableWord 32 0x04E8501F = some (.shri 7 8 31) ∧
    decodeTableWord 32 0x04E86004 = some (.asri 7 8 4) ∧
    decodeTableWord 32 0x04E87FFF = some (.shli 7 8 (-1)) ∧
    decodeTableWord 32 0x04E887FF = some (.cchi 7 8 2047) ∧
    decodeTableWord 32 0x04E89001 = some (.bchi 7 8 1) ∧
    decodeTableWord 32 0x08E12345 = some (.lui 7 0x12345) := by decide

theorem test_encode_immArith :
    encode (.addi 7 8 (-2048)) = 0x04E80800 ∧
    encode (.andi 7 8 (-16)) = 0x04E82FF0 ∧
    encode (.ori 7 8 1) = 0x04E83001 ∧
    encode (.xori 7 8 1365) = 0x04E84555 ∧
    encode (.shri 7 8 31) = 0x04E8501F ∧
    encode (.asri 7 8 4) = 0x04E86004 ∧
    encode (.shli 7 8 (-1)) = 0x04E87FFF ∧
    encode (.cchi 7 8 2047) = 0x04E887FF ∧
    encode (.bchi 7 8 1) = 0x04E89001 ∧
    encode (.lui 7 0x12345) = 0x08E12345 := by decide

theorem test_decode_memory :
    decodeTableWord 32 0x0FE804FD = some (.stb 9 8 (-3)) ∧
    decodeTableWord 32 0x0C081483 = some (.stw 9 8 3) ∧
    decodeTableWord 32 0x0FE824FC = some (.std 9 8 (-4)) ∧
    decodeTableWord 32 0x0C083488 = some (.stq 9 8 8) ∧
    decodeTableWord 32 0x10E80004 = some (.ldb 7 8 4) ∧
    decodeTableWord 32 0x10E84007 = some (.ldsb 7 8 7) ∧
    decodeTableWord 32 0x10E81005 = some (.ldw 7 8 5) ∧
    decodeTableWord 32 0x10E85006 = some (.ldsw 7 8 6) ∧
    decodeTableWord 32 0x10E82003 = some (.ldd 7 8 3) ∧
    decodeTableWord 32 0x10E83008 = some (.ldq 7 8 8) ∧
    decodeTableWord 32 0x10E86008 = some (.ldsd 7 8 8) := by decide

theorem test_encode_memory :
    encode (.stb 9 8 (-3)) = 0x0FE804FD ∧
    encode (.stw 9 8 3) = 0x0C081483 ∧
    encode (.std 9 8 (-4)) = 0x0FE824FC ∧
    encode (.stq 9 8 8) = 0x0C083488 ∧
    encode (.ldb 7 8 4) = 0x10E80004 ∧
    encode (.ldsb 7 8 7) = 0x10E84007 ∧
    encode (.ldw 7 8 5) = 0x10E81005 ∧
    encode (.ldsw 7 8 6) = 0x10E85006 ∧
    encode (.ldd 7 8 3) = 0x10E82003 ∧
    encode (.ldq 7 8 8) = 0x10E83008 ∧
    encode (.ldsd 7 8 8) = 0x10E86008 := by decide

theorem test_decode_jumps :
    decodeTableWord 32 0x14900000 = some (.jal 4 (-1048576)) ∧
    decodeTableWord 32 0x188D0010 = some (.jalr 4 13 16) ∧
    decodeTableWord 32 0x1C07040C = some (.jeq 7 8 12) ∧
    decodeTableWord 32 0x1FE71478 = some (.jlt 7 8 (-8)) ∧
    decodeTableWord 32 0x1FE72478 = some (.jslt 7 8 (-8)) ∧
    decodeTableWord 32 0x1FE74074 = some (.jne 7 0 (-12)) ∧
    decodeTableWord 32 0x1DE7547C = some (.jge 7 8 2044) ∧
    decodeTableWord 32 0x1E076400 = some (.jsge 7 8 (-2048)) := by decide

theorem test_encode_jumps :
    encode (.jal 4 (-1048576)) = 0x14900000 ∧
    encode (.jalr 4 13 16) = 0x188D0010 ∧
    encode (.jeq 7 8 12) = 0x1C07040C ∧
    encode (.jlt 7 8 (-8)) = 0x1FE71478 ∧
    encode (.jslt 7 8 (-8)) = 0x1FE72478 ∧
    encode (.jne 7 0 (-12)) = 0x1FE74074 ∧
    encode (.jge 7 8 2044) = 0x1DE7547C ∧
    encode (.jsge 7 8 (-2048)) = 0x1E076400 := by decide

theorem test_decode_system :
    decodeTableWord 32 0x20000007 = some (.int 7) ∧
    decodeTableWord 32 0x24003000 = some .mret ∧
    decodeTableWord 32 0x24001000 = some .sysret ∧
    decodeTableWord 32 0x28070801 = some (.csrw 7 2049) ∧
    decodeTableWord 32 0x28E01803 = some (.csrr 7 2051) ∧
    decodeTableWord 32 0x28212000 = some (.csrs 0 33) ∧
    decodeTableWord 32 0x28023000 = some (.csrc 0 2) := by decide

theorem test_encode_system :
    encode (.int 7) = 0x20000007 ∧
    encode .mret = 0x24003000 ∧
    encode .sysret = 0x24001000 ∧
    encode (.csrw 7 2049) = 0x28070801 ∧
    encode (.csrr 7 2051) = 0x28E01803 ∧
    encode (.csrs 0 33) = 0x28212000 ∧
    encode (.csrc 0 2) = 0x28023000 := by decide

theorem test_decode_ports :
    decodeTableWord 32 0x2CE80001 = some (.inb 7 8 1) ∧
    decodeTableWord 32 0x2CE81002 = some (.inw 7 8 2) ∧
    decodeTableWord 32 0x2CE82004 = some (.ind 7 8 4) ∧
    decodeTableWord 32 0x2CE84001 = some (.insb 7 8 1) ∧
    decodeTableWord 32 0x2CE85002 = some (.insw 7 8 2) ∧
    decodeTableWord 32 0x30080481 = some (.outb 9 8 1) ∧
    decodeTableWord 32 0x30081482 = some (.outw 9 8 2) ∧
    decodeTableWord 32 0x30082484 = some (.outd 9 8 4) := by decide

theorem test_encode_ports :
    encode (.inb 7 8 1) = 0x2CE80001 ∧
    encode (.inw 7 8 2) = 0x2CE81002 ∧
    encode (.ind 7 8 4) = 0x2CE82004 ∧
    encode (.insb 7 8 1) = 0x2CE84001 ∧
    encode (.insw 7 8 2) = 0x2CE85002 ∧
    encode (.outb 9 8 1) = 0x30080481 ∧
    encode (.outw 9 8 2) = 0x30081482 ∧
    encode (.outd 9 8 4) = 0x30082484 := by decide

theorem test_decode_mulDiv :
    decodeTableWord 32 0x34E80480 = some (.mul 7 8 9) ∧
    decodeTableWord 32 0x34E81480 = some (.smul 7 8 9) ∧
    decodeTableWord 32 0x34E82480 = some (.mulh 7 8 9) ∧
    decodeTableWord 32 0x34E83480 = some (.smulh 7 8 9) ∧
    decodeTableWord 32 0x34E84480 = some (.div 7 8 9) ∧
    decodeTableWord 32 0x34E85480 = some (.sdiv 7 8 9) ∧
    decodeTableWord 32 0x34E86480 = some (.mod 7 8 9) ∧
    decodeTableWord 32 0x34E87480 = some (.smod 7 8 9) := by decide

theorem test_encode_mulDiv :
    encode (.mul 7 8 9) = 0x34E80480 ∧
    encode (.smul 7 8 9) = 0x34E81480 ∧
    encode (.mulh 7 8 9) = 0x34E82480 ∧
    encode (.smulh 7 8 9) = 0x34E83480 ∧
    encode (.div 7 8 9) = 0x34E84480 ∧
    encode (.sdiv 7 8 9) = 0x34E85480 ∧
    encode (.mod 7 8 9) = 0x34E86480 ∧
    encode (.smod 7 8 9) = 0x34E87480 := by decide

/-- R103: unused fields are ignored, here `rd` of INT, the register fields of MRET, `rs1` of CSRR, bits 25:22 of CSRS. -/
theorem test_decode_ignores_unused_fields :
    decodeTableWord 32 0x23E00008 = some (.int 8) ∧ decodeTableWord 32 0x27FF3F80 = some .mret ∧
    decodeTableWord 32 0x28FF1803 = some (.csrr 7 2051) ∧ decodeTableWord 32 0x2BE12000 = some (.csrs 0 33) := by decide

theorem test_decode_refuses :
    decodeTableWord 32 0xFFFFFFFF = none ∧ decodeTableWord 32 0x00E80481 = none ∧ decodeTableWord 32 0x04E81005 = none ∧
    decodeTableWord 32 0x30084484 = none ∧ decodeTableWord 32 0x24003001 = none := by decide

/-! ## One step per instruction -/

theorem test_add : after (exec (.add 7 8 9) (st 0x7FFFFFFF 1)) r7pc = some (0x80000000, 0x104) ∧
    after (exec (.add 7 8 9) (st 0xFFFFFFFF 1)) r7pc = some (0, 0x104) := by decide

theorem test_sub : after (exec (.sub 7 8 9) (st 0 1)) r7pc = some (0xFFFFFFFF, 0x104) ∧
    after (exec (.sub 7 8 9) (st 0x80000000 1)) r7pc = some (0x7FFFFFFF, 0x104) := by decide

theorem test_and : after (exec (.and 7 8 9) (st 0xF0F0A5A5 0x0FF0FFFF)) r7pc = some (0x00F0A5A5, 0x104) := by decide

theorem test_or : after (exec (.or 7 8 9) (st 0xF0F00000 0x0000A5A5)) r7pc = some (0xF0F0A5A5, 0x104) := by decide

theorem test_xor : after (exec (.xor 7 8 9) (st 0xFFFF0000 0x0FF00FF0)) r7pc = some (0xF00F0FF0, 0x104) := by decide

theorem test_shr : after (exec (.shr 7 8 9) (st 0x80000000 0x1F)) r7pc = some (1, 0x104) ∧
    after (exec (.shr 7 8 9) (st 0x80000000 0)) r7pc = some (0x80000000, 0x104) := by decide

theorem test_asr : after (exec (.asr 7 8 9) (st 0x80000000 0x1F)) r7pc = some (0xFFFFFFFF, 0x104) ∧
    after (exec (.asr 7 8 9) (st 0xFFFFFF00 4)) r7pc = some (0xFFFFFFF0, 0x104) := by decide

theorem test_shl : after (exec (.shl 7 8 9) (st 1 0x1F)) r7pc = some (0x80000000, 0x104) ∧
    after (exec (.shl 7 8 9) (st 0x80000001 1)) r7pc = some (2, 0x104) := by decide

theorem test_cch : after (exec (.cch 7 8 9) (st 0xFFFFFFFF 1)) r7pc = some (1, 0x104) ∧
    after (exec (.cch 7 8 9) (st 0x7FFFFFFF 0x80000000)) r7pc = some (0, 0x104) := by decide

theorem test_bch : after (exec (.bch 7 8 9) (st 5 7)) r7pc = some (1, 0x104) ∧
    after (exec (.bch 7 8 9) (st 0x80000000 0x7FFFFFFF)) r7pc = some (0, 0x104) := by decide

theorem test_addi : after (exec (.addi 7 8 (-2048)) (st 0x100 0)) r7pc = some (0xFFFFF900, 0x104) ∧
    after (exec (.addi 7 8 1) (st 0x7FFFFFFF 0)) r7pc = some (0x80000000, 0x104) := by decide

theorem test_andi : after (exec (.andi 7 8 (-16)) (st 0x12345678 0)) r7pc = some (0x12345670, 0x104) ∧
    after (exec (.andi 7 8 255) (st 0x12345678 0)) r7pc = some (0x78, 0x104) := by decide

theorem test_ori : after (exec (.ori 7 8 (-2048)) (st 0 0)) r7pc = some (0xFFFFF800, 0x104) ∧
    after (exec (.ori 7 8 1) (st 0x10 0)) r7pc = some (0x11, 0x104) := by decide

theorem test_xori : after (exec (.xori 7 8 1365) (st 0xAAAAAAAA 0)) r7pc = some (0xAAAAAFFF, 0x104) ∧
    after (exec (.xori 7 8 (-1)) (st 0x0000FFFF 0)) r7pc = some (0xFFFF0000, 0x104) := by decide

theorem test_shri : after (exec (.shri 7 8 31) (st 0x80000000 0)) r7pc = some (1, 0x104) := by decide

theorem test_asri : after (exec (.asri 7 8 31) (st 0x80000000 0)) r7pc = some (0xFFFFFFFF, 0x104) ∧
    after (exec (.asri 7 8 4) (st 0xFFFFFF00 0)) r7pc = some (0xFFFFFFF0, 0x104) := by decide

theorem test_shli : after (exec (.shli 7 8 4) (st 0x12345678 0)) r7pc = some (0x23456780, 0x104) := by decide

theorem test_cchi : after (exec (.cchi 7 8 (-1)) (st 5 0)) r7pc = some (1, 0x104) ∧
    after (exec (.cchi 7 8 2047) (st 0xFFFFF800 0)) r7pc = some (0, 0x104) := by decide

theorem test_bchi : after (exec (.bchi 7 8 (-1)) (st 5 0)) r7pc = some (1, 0x104) ∧
    after (exec (.bchi 7 8 1) (st 1 0)) r7pc = some (0, 0x104) := by decide

theorem test_lui : after (exec (.lui 7 0x12345) (st 0 0)) r7pc = some (0x091A2800, 0x104) ∧
    after (exec (.lui 7 0x1FFFFF) (st 0 0)) r7pc = some (0xFFFFF800, 0x104) := by decide

/-- R21: a write to r0 is discarded, a read of it gives 0. -/
theorem test_zr : after (exec (.add 0 8 9) (st 5 6)) (fun t => (readReg 0 t, t.regs)) = some (0, (st 5 6).regs) ∧
    after (exec (.sub 7 0 8) (st 1 0)) r7pc = some (0xFFFFFFFF, 0x104) := by decide

theorem test_stb : after (exec (.stb 9 8 (-3)) stMem) (fun t => two 0xFFD t) = some (0xDD, 0) := by decide

theorem test_stw : after (exec (.stw 9 8 3) stMem) (fun t => (two 0x1002 t, two 0x1004 t)) =
    some ((0xCC, 0xDD), (0x80, 0x01)) := by decide

theorem test_std : after (exec (.std 9 8 7) stMem) (fun t => (two 0x1002 t, two 0x1004 t, two 0x1006 t)) =
    some ((0x33, 0x44), (0xAA, 0xBB), (0xCC, 0xDD)) := by decide

/-- A store of the byte an unlisted address reads as leaves no entry behind. -/
theorem test_store_keeps_canonical_form : after (exec (.stb 0 8 0) (st 0x1000 0)) (fun t => t.mem) = some [] := by decide

theorem test_ldb : after (exec (.ldb 7 8 4) stMem) r7pc = some (0x80, 0x104) := by decide

theorem test_ldsb : after (exec (.ldsb 7 8 4) stMem) r7pc = some (0xFFFFFF80, 0x104) ∧
    after (exec (.ldsb 7 8 7) stMem) r7pc = some (0x7F, 0x104) := by decide

theorem test_ldw : after (exec (.ldw 7 8 5) stMem) r7pc = some (0x8001, 0x104) := by decide

theorem test_ldsw : after (exec (.ldsw 7 8 4) stMem) r7pc = some (0xFFFF8001, 0x104) ∧
    after (exec (.ldsw 7 8 6) stMem) r7pc = some (0xFFFFFF7F, 0x104) := by decide

/-- The second: the base is the destination. -/
theorem test_ldd : after (exec (.ldd 7 8 3) stMem) r7pc = some (0x11223344, 0x104) ∧
    after (exec (.ldd 8 8 0) stMem) (readReg 8) = some 0x11223344 := by decide

theorem test_srm64_rows : faultOf (exec (.stq 9 8 8) stMem) = some .illegalInstruction ∧
    faultOf (exec (.ldq 7 8 8) stMem) = some .illegalInstruction ∧
    faultOf (exec (.ldsd 7 8 8) stMem) = some .illegalInstruction := by decide

theorem test_jal : after (exec (.jal 4 0x100) { st 0 0 with pc := 0x200 }) (fun t => (readReg 4 t, t.pc)) =
    some (0x204, 0x300) ∧
    after (exec (.jal 0 8) { st 0 0 with pc := 0xFFFFFFFC }) (·.pc) = some 4 := by decide

/-- The second: `rd` is the base. -/
theorem test_jalr : after (exec (.jalr 0 0 (-4)) (st 0 0)) (·.pc) = some 0xFFFFFFFC ∧
    after (exec (.jalr 8 8 0) (st 0x500 0)) (fun t => (readReg 8 t, t.pc)) = some (0x104, 0x500) := by decide

theorem test_jeq : after (exec (.jeq 8 9 12) (st 5 5)) (·.pc) = some 0x10C ∧
    after (exec (.jeq 8 9 12) (st 5 6)) (·.pc) = some 0x104 := by decide

theorem test_jlt : after (exec (.jlt 8 9 (-8)) (st 1 0xFFFFFFFF)) (·.pc) = some 0xF8 ∧
    after (exec (.jlt 8 9 (-8)) (st 0xFFFFFFFF 1)) (·.pc) = some 0x104 := by decide

theorem test_jslt : after (exec (.jslt 8 9 (-8)) (st 0xFFFFFFFF 1)) (·.pc) = some 0xF8 ∧
    after (exec (.jslt 8 9 (-8)) (st 0x7FFFFFFF 0x80000000)) (·.pc) = some 0x104 := by decide

theorem test_jne : after (exec (.jne 8 9 (-8)) (st 3 0)) (·.pc) = some 0xF8 ∧
    after (exec (.jne 8 9 (-8)) (st 0 0)) (·.pc) = some 0x104 := by decide

theorem test_jge : after (exec (.jge 8 9 2044) (st 9 9)) (·.pc) = some 0x8FC ∧
    after (exec (.jge 8 9 2044) (st 0 1)) (·.pc) = some 0x104 := by decide

theorem test_jsge : after (exec (.jsge 8 9 12) (st 0 0xFFFFFFFF)) (·.pc) = some 0x10C ∧
    after (exec (.jsge 8 9 12) (st 0x80000000 0)) (·.pc) = some 0x104 := by decide

/-- spec/95 2.5, the first three rows of INT: cause, return address, saved level, IP, level. -/
theorem test_int : after (exec (.int 7) { at100 .user 0 0 with kiva := 0x80 })
      (fun t => (t.kcause, t.kra, t.kpriv, t.pc, mode t)) = some (4, 0x100, 0, 0x80, .kernel) ∧
    after (exec (.int 8) { at100 .kernel 0 0 with miva := 0x40 })
      (fun t => (t.mcause, t.mra, t.mpriv, t.pc, mode t)) = some (8, 0x100, 1, 0x40, .machine) := by decide

theorem test_int_at_machine_level : after (exec (.int 8) { st 0 0 with miva := 0x40, mpriv := 0 })
      (fun t => (t.mcause, t.mra, t.mpriv, t.pc, mode t)) = some (8, 0x100, 0, 0x40, .machine) := by decide

theorem test_mret : after (exec .mret { st 0 0 with mra := 0x200, mpriv := 0 }) (fun t => (t.pc, mode t)) =
      some (0x200, .user) ∧
    faultOf (exec .mret { st 0 0 with mpriv := 2 }) = some .reservedPrivilege := by decide

theorem test_sysret : after (exec .sysret { st 0 0 with kra := 0x404, kpriv := 1 }) (fun t => (t.pc, mode t)) =
      some (0x404, .kernel) ∧
    faultOf (exec .sysret (at100 .user 0 0)) = some .privilegeViolation := by decide

theorem test_csrw : after (exec (.csrw 8 1) (st 0x100 0)) (fun t => (t.miva, t.pc)) = some (0x100, 0x104) ∧
    after (exec (.csrw 8 1) (at100 .kernel 0x100 0)) (fun t => (t.miva, t.pc)) = some (0, 0x104) := by decide

theorem test_csrw_mode_field : after (exec (.csrw 8 0) (st 3 0)) mode = some .kernel ∧
    faultOf (exec (.csrw 8 0) (st 4 0)) = some .reservedPrivilege := by decide

theorem test_csrr : after (exec (.csrr 7 2051) { at100 .kernel 0 0 with kcause := 8 }) r7pc = some (8, 0x104) ∧
    after (exec (.csrr 7 2051) { at100 .user 0 0 with kcause := 8 }) r7pc = some (0, 0x104) := by decide

theorem test_csrs : after (exec (.csrs 0 0) (st 0 0)) (·.mstatus) = some 7 ∧
    after (exec (.csrs 0 33) (st 0 0)) (·.mstatus) = some 6 := by decide

theorem test_csrc : after (exec (.csrc 0 2) (st 0 0)) mode = some .kernel ∧
    faultOf (exec (.csrc 0 1) (st 0 0)) = some .reservedPrivilege := by decide

/-- The transaction; the value in `r7` is the device's. -/
theorem test_port_reads : after (exec (.inb 7 8 1) (st 0x3F8 0)) (·.portTrace) = some [.read 0x3F9 .byte] ∧
    after (exec (.inw 7 8 2) (st 0x101 0)) (·.portTrace) = some [.read 0x102 .word] ∧
    after (exec (.ind 7 8 4) (st 0x103 0)) (·.portTrace) = some [.read 0x104 .dword] ∧
    after (exec (.insb 7 8 1) (st 0x3F8 0)) (·.portTrace) = some [.read 0x3F9 .byte] ∧
    after (exec (.insw 7 8 2) (st 0x101 0)) (·.portTrace) = some [.read 0x102 .word] := by decide

/-- R270 to R274: zero- and sign-extension of what was read. -/
theorem test_port_extension : extend .zero .byte 0x80 = 0x80 ∧ extend .sign .byte 0x80 = 0xFFFFFF80 ∧
    extend .zero .word 0x8001 = 0x8001 ∧ extend .sign .word 0x8001 = 0xFFFF8001 := by decide

theorem test_port_writes :
    after (exec (.outb 9 8 1) (st 0x3F8 0x141)) (·.portTrace) = some [.write 0x3F9 .byte 0x41] ∧
    after (exec (.outw 9 8 2) (st 0x101 0xAABBCCDD)) (·.portTrace) = some [.write 0x102 .word 0xCCDD] ∧
    after (exec (.outd 9 8 4) (st 0x100 0xAABBCCDD)) (·.portTrace) = some [.write 0x104 .dword 0xAABBCCDD] := by decide

theorem test_ports_at_user_level : faultOf (exec (.inb 7 8 1) (at100 .user 0 0)) = some .privilegeViolation ∧
    faultOf (exec (.outb 9 8 1) (at100 .user 0 0)) = some .privilegeViolation := by decide

theorem test_mul : after (exec (.mul 7 8 9) (st 0xFFFFFFF9 2)) r7pc = some (0xFFFFFFF2, 0x104) ∧
    after (exec (.mul 7 8 9) (st 0x80000000 0xFFFFFFFF)) r7pc = some (0x80000000, 0x104) := by decide

theorem test_smul : after (exec (.smul 7 8 9) (st 7 0xFFFFFFFE)) r7pc = some (0xFFFFFFF2, 0x104) := by decide

theorem test_mulh : after (exec (.mulh 7 8 9) (st 0xFFFFFFF9 0xFFFFFFFE)) r7pc = some (0xFFFFFFF7, 0x104) ∧
    after (exec (.mulh 7 8 9) (st 0x80000000 0x80000000)) r7pc = some (0x40000000, 0x104) := by decide

theorem test_smulh : after (exec (.smulh 7 8 9) (st 7 0xFFFFFFFE)) r7pc = some (0xFFFFFFFF, 0x104) ∧
    after (exec (.smulh 7 8 9) (st 0x7FFFFFFF 0x7FFFFFFF)) r7pc = some (0x3FFFFFFF, 0x104) := by decide

theorem test_div : after (exec (.div 7 8 9) (st 0xFFFFFFF9 2)) r7pc = some (0x7FFFFFFC, 0x104) := by decide

theorem test_sdiv : after (exec (.sdiv 7 8 9) (st 0xFFFFFFF9 2)) r7pc = some (0xFFFFFFFD, 0x104) ∧
    after (exec (.sdiv 7 8 9) (st 7 0xFFFFFFFE)) r7pc = some (0xFFFFFFFD, 0x104) := by decide

theorem test_mod : after (exec (.mod 7 8 9) (st 0xFFFFFFF9 0xFFFFFFFE)) r7pc = some (0xFFFFFFF9, 0x104) := by decide

theorem test_smod : after (exec (.smod 7 8 9) (st 0xFFFFFFF9 2)) r7pc = some (0xFFFFFFFF, 0x104) ∧
    after (exec (.smod 7 8 9) (st 7 0xFFFFFFFE)) r7pc = some (1, 0x104) := by decide

/-- spec/44: SSLT and the two worked examples of spec/95 1.3, as words. -/
theorem test_macro_words :
    (expandMacro (.sslt 7 8 9)).map (List.map encode) = some [0x00E81480, 0x04E7501F] ∧
    (expandMacro (.ldbupdt 10 13 1)).map (List.map encode) = some [0x114D0001, 0x05AD0001] ∧
    (expandMacro (.stwupdt 10 13 1)).map (List.map encode) = some [0x0C0D1501, 0x05AD0001] := by decide

/-- R232, R233, corrected: two pushes and two pops; R113: the displacements at both ends of the 12 signed bits. -/
theorem test_push_pop : expandMacro (.push [8, 9]) = some [.std 8 5 (-4), .std 9 5 (-8), .addi 5 5 (-8)] ∧
    expandMacro (.pop [8, 9]) = some [.ldd 8 5 0, .ldd 9 5 4, .addi 5 5 8] ∧
    asmImm12 (-2048) = some 0x800 ∧ asmImm12 (-2052) = none ∧ asmImm12 2044 = some 0x7FC ∧ asmImm12 2048 = none := by
  decide

/-- R113: 512 pushes and 511 pops assemble, one more does not. -/
theorem test_push_pop_limits :
    ((expandMacro (.push (List.replicate 512 8))).isSome = true ∧ expandMacro (.push (List.replicate 513 8)) = none) ∧
    ((expandMacro (.pop (List.replicate 511 8))).isSome = true ∧ expandMacro (.pop (List.replicate 512 8)) = none) := by
  simp only [← Option.not_isSome_iff_eq_none, expandMacro_push_isSome, expandMacro_pop_isSome, List.length_replicate]
  decide

/-! ## One step, with the fetch -/

theorem test_step_runs_placed_word : after (step (placed 0x04E00029)) r7pc = some (41, 4) := by decide

theorem test_step_on_no_instruction : faultOf (step (placed 0xFFFFFFFF)) = some .illegalInstruction ∧
    refusalOf (step (placed 0x00E80481)) = some .reservedFn7 ∧
    refusalOf (step (placed 0x30084484)) = some .printedOutFn4 := by decide

/-- spec/95 2.5: an external interrupt with cause 0x40 at IP 0x500. -/
theorem test_external_interrupt :
    after (step { at100 .user 0 0 with pc := 0x500, kiva := 0x80, irqQueue := [0x40] })
      (fun t => (t.kra, t.kcause, t.kpriv, t.pc, mode t)) = some (0x500, 0x40, 0, 0x80, .kernel) ∧
    after (step { st 0 0 with pc := 0x500, irqInput := [some { cause := 0x40, slot := 0 }] })
      (fun t => (t.pc, mode t, t.irqQueue)) = some (0x504, .machine, []) := by decide
/-! ## Witnesses: for each obligation with hypotheses, a state and operands that meet them -/

/-- A placed word with no interrupt pending is fetched, and the boundary changes nothing. -/
theorem quiet_placed (w : Nat) : QuietBoundary (placed w) (placed w) := by
  have h : acceptsIrq (placed w) = false := by
    unfold acceptsIrq
    rw [show mode (placed w) = .machine from (mode_congr (s := State.reset) rfl).trans (by decide)]
    show (6 : DWord).getLsbD 0 = false
    decide
  unfold QuietBoundary boundary
  rw [h]
  rfl

/-- The same on a core without M and S. -/
def placedBare (word : Nat) : State :=
  { placed word with platform := { Config.platform with variant := { hasS := false, hasM := false, hasH := true } } }

theorem quiet_placedBare (w : Nat) : QuietBoundary (placedBare w) (placedBare w) := by
  have h : acceptsIrq (placedBare w) = false := by
    unfold acceptsIrq
    rw [show mode (placedBare w) = .machine from (mode_congr (s := State.reset) rfl).trans (by decide)]
    show (6 : DWord).getLsbD 0 = false
    decide
  unfold QuietBoundary boundary
  rw [h]
  rfl

/-- Unassigned cells of every opcode that has some, and the first and last unassigned opcode. -/
theorem witness_WordsThatAreNoInstruction_unassigned :
    (∀ w ∈ [0x00E8A480, 0x04E81005, 0x04E8A000, 0x0C083488, 0x10E83008, 0x10E86008, 0x18041000, 0x1C07340C, 0x1C07740C,
      0x24003001, 0x24000000, 0x28E04000, 0x2CE83000, 0x2CE86000, 0x30083484, 0x30085484, 0x34E88480, 0x38000000,
      0xFFFFFFFF], fetch (placed w) = .ok (BitVec.ofNat 32 w)) ∧
    (∀ w ∈ [0x00E8A480, 0x04E81005, 0x04E8A000, 0x0C083488, 0x10E83008, 0x10E86008, 0x18041000, 0x1C07340C, 0x1C07740C,
      0x24003001, 0x24000000, 0x28E04000, 0x2CE83000, 0x2CE86000, 0x30083484, 0x30085484, 0x34E88480, 0x38000000,
      0xFFFFFFFF], UnassignedCell (fieldOpcode (BitVec.ofNat 32 w)).toNat (fieldFn4 (BitVec.ofNat 32 w)).toNat
        (fieldFn7 (BitVec.ofNat 32 w)).toNat) := by
  unfold UnassignedCell
  decide

/-- MUL on a core without M, register 31 on a core with H; a word with fn7 ≠ 0 at both ends of its fn4 range, and the
printed fn4 of the outputs, on a core that has the opcode and on one that has not. -/
theorem witness_WordsThatAreNoInstruction_others :
    (fetch (placedBare 0x34E80480) = .ok 0x34E80480 ∧ decodeWord 0x34E80480 = .ok (.mul 7 8 9) ∧
      Instr.assigned (placedBare 0x34E80480).platform.variant (.mul 7 8 9) = false) ∧
    (decodeWord 0x03E80480 = .ok (.add 31 8 9) ∧
      Instr.assigned (placedBare 0x03E80480).platform.variant (.add 31 8 9) = false) ∧
    (∀ w ∈ [0x00E80481, 0x00E894FF], fieldOpcode (BitVec.ofNat 32 w) = 0 ∧ (fieldFn4 (BitVec.ofNat 32 w)).toNat ≤ 9 ∧
      fieldFn7 (BitVec.ofNat 32 w) ≠ 0 ∧ fetch (placed w) = .ok (BitVec.ofNat 32 w)) ∧
    (∀ w ∈ [0x34E80481, 0x34E874FF], fieldOpcode (BitVec.ofNat 32 w) = 0xD ∧ (fieldFn4 (BitVec.ofNat 32 w)).toNat ≤ 7 ∧
      fieldFn7 (BitVec.ofNat 32 w) ≠ 0 ∧ fetch (placed w) = .ok (BitVec.ofNat 32 w) ∧
      fetch (placedBare w) = .ok (BitVec.ofNat 32 w)) ∧
    (fieldOpcode 0x30084484 = 0xC ∧ fieldFn4 0x30084484 = 4 ∧ fetch (placed 0x30084484) = .ok 0x30084484) := by decide

/-- Words that decode, on variants that assign them and that do not: S, M, the last register with H, an SRM64 row; a CSRS
position and unused register fields are no registers. -/
theorem witness_WordsThatAreNoInstruction_variant :
    decodeWord 0x28212000 = .ok (.csrs 0 33) ∧ decodeWord 0x27FF3F80 = .ok .mret ∧ decodeWord 0x0C083488 = .ok (.stq 9 8 8) ∧
    (∀ h, Instr.assigned ⟨false, true, h⟩ (.csrs 0 33) = false ∧ Instr.assigned ⟨true, false, h⟩ (.csrs 0 33) = true ∧
      Instr.assigned ⟨true, false, h⟩ .mret = true ∧ Instr.assigned ⟨true, false, h⟩ (.mul 7 8 9) = false ∧
      Instr.assigned ⟨true, true, h⟩ (.stq 9 8 8) = false) ∧
    decodeWord 0x01E80480 = .ok (.add 15 8 9) ∧ Instr.assigned ⟨false, false, true⟩ (.add 15 8 9) = true ∧
    decodeWord 0x02080480 = .ok (.add 16 8 9) ∧ Instr.assigned ⟨false, false, true⟩ (.add 16 8 9) = false := by decide

theorem witness_StepRunsTheDecodedInstruction :
    QuietBoundary (placed 0x00E80480) (placed 0x00E80480) ∧ (placed 0x00E80480).pc.extractLsb' 0 2 = 0 ∧
    mapped .dword (placed 0x00E80480).pc (placed 0x00E80480) = true ∧ fetchIsStale (placed 0x00E80480) = false ∧
    decode [(placed 0x00E80480).mem.read 0, (placed 0x00E80480).mem.read 1, (placed 0x00E80480).mem.read 2,
      (placed 0x00E80480).mem.read 3] = .ok (.add 7 8 9, []) ∧
    Instr.assigned (placed 0x00E80480).platform.variant (.add 7 8 9) = true :=
  ⟨rfl, by decide, by decide, by decide, by decide, by decide⟩

theorem witness_PlacedWordRuns : decodeTableWord 32 0x00E80480 = some (.add 7 8 9) ∧
    QuietBoundary (State.reset.withFetchWord 32 0x00E80480) (State.reset.withFetchWord 32 0x00E80480) ∧
    State.reset.pc.extractLsb' 0 2 = 0 ∧ mapped .dword State.reset.pc State.reset = true ∧
    State.reset.mem.wf = true ∧ Instr.assigned State.reset.platform.variant (.add 7 8 9) = true ∧
    Instr.wellFormed .mret = true :=
  ⟨by decide, rfl, by decide, by decide, by decide, by decide, by decide⟩

theorem witness_ResetEntryPoint :
    decode [Memory.read [(1, 0xE8), (2, 0x04), (3, 0x80)] 0, Memory.read [(1, 0xE8), (2, 0x04), (3, 0x80)] 1,
      Memory.read [(1, 0xE8), (2, 0x04), (3, 0x80)] 2, Memory.read [(1, 0xE8), (2, 0x04), (3, 0x80)] 3] =
      .ok (.add 7 8 9, []) ∧ Instr.wellFormed (.add 7 8 9) = true := by decide

theorem witness_StepKeepsInv : StateInv (placed 0x0C080480) ∧ ∃ t, step (placed 0x0C080480) = .next t :=
  ⟨by unfold StateInv; decide, next_of_after (f := (·.pc)) (x := 4) (by decide)⟩

/-- Memory at both ends of the address space. -/
theorem witness_XorAndiAndLdb : mapped .byte (accessAddr .byte 8 0 (st 0 0)) (st 0 0) = true ∧
    mapped .byte (accessAddr .byte 8 (-1) (st 0 0)) (st 0 0) = true := by decide

/-- The last byte, word and dword of the address space, at unaligned sums. -/
theorem witness_Stores : (st 0xFFFFFFFF 0).mem.wf = true ∧
    writable .byte (accessAddr .byte 8 0 (st 0xFFFFFFFF 0)) (st 0xFFFFFFFF 0) = true ∧
    writable .word (accessAddr .word 8 0 (st 0xFFFFFFFF 0)) (st 0xFFFFFFFF 0) = true ∧
    writable .dword (accessAddr .dword 8 0 (st 0xFFFFFFFF 0)) (st 0xFFFFFFFF 0) = true := by decide

theorem witness_Loads : mapped .byte (accessAddr .byte 8 0 (st 0xFFFFFFFF 0)) (st 0xFFFFFFFF 0) = true ∧
    mapped .word (accessAddr .word 8 1 (st 0xFFFFFFFE 0)) (st 0xFFFFFFFE 0) = true ∧
    mapped .dword (accessAddr .dword 8 3 (st 0xFFFFFFFC 0)) (st 0xFFFFFFFC 0) = true := by decide

/-- A platform with 4 KiB of RAM at 0, 4 KiB of ROM at 0x2000 and no device. -/
def small (a : DWord) : State :=
  { st a 0 with platform := { Config.platform with
    memMap := [{ region := { base := 0, size := 0x1000 }, kind := .ram },
      { region := { base := 0x2000, size := 0x1000 }, kind := .rom }]
    portMap := [] } }

/-- R68: the last dword of the RAM is stored to; the ROM is read at both its ends and not stored to. -/
theorem test_rom : after (exec (.std 9 8 0) (small 0xFFF)) (·.pc) = some 0x104 ∧
    faultOf (exec (.std 9 8 0) (small 0x1000)) = some .unmappedAddress ∧
    after (exec (.ldb 7 8 0) (small 0x2000)) (·.pc) = some 0x104 ∧ faultOf (exec (.stb 9 8 0) (small 0x2000)) = some .storeToRom ∧
    after (exec (.ldb 7 8 0) (small 0x2FFF)) (·.pc) = some 0x104 ∧ faultOf (exec (.stb 9 8 0) (small 0x2FFF)) = some .storeToRom ∧
    faultOf (exec (.ldb 7 8 0) (small 0x3000)) = some .unmappedAddress := by decide

/-- No memory just past the RAM; ROM; no device. -/
theorem witness_NothingBehindTheAddress :
    Instr.memAccess (.ldd 7 8 0) = some (.dword, 8, 0) ∧ mapped .dword (accessAddr .dword 8 0 (small 0x1000)) (small 0x1000) = false ∧
    mapped .dword (accessAddr .dword 8 0 (small 0xFFF)) (small 0xFFF) = true ∧
    Instr.storeWidth (.std 9 8 0) = some (.dword, 8, 0) ∧
    mapped .dword (accessAddr .dword 8 0 (small 0x2000)) (small 0x2000) = true ∧
    writable .dword (accessAddr .dword 8 0 (small 0x2000)) (small 0x2000) = false ∧
    Instr.portAccess (.outb 9 8 0) = some (.byte, 8, 0) ∧ mode (small 0) ≠ .user ∧
    portPresent (accessAddr .byte 8 0 (small 0)) (small 0) = false := by decide

theorem witness_StoreThenLoad : stMem.mem.wf = true ∧ (∃ t, exec (.std 9 8 4) stMem = .next t) ∧
    baseSum 8 4 stMem % 4 = 0 ∧ baseSum 8 5 stMem = baseSum 8 4 stMem + 1 ∧ baseSum 8 6 stMem = baseSum 8 4 stMem + 2 ∧
    baseSum 8 7 stMem = baseSum 8 4 stMem + 3 :=
  ⟨by decide, next_of_after (f := (·.pc)) (x := 0x104) (by decide), by decide, by decide, by decide, by decide⟩

/-- A store, with the addresses on both sides of its bytes; an instruction that stores nothing; and a store with a byte of
ROM elsewhere. -/
theorem witness_MemoryFrame : (∃ t, exec (.std 9 8 4) stMem = .next t) ∧
    Instr.storeWidth (.std 9 8 4) = some (.dword, 8, 4) ∧
    0x1003 ∉ footprint .dword (accessAddr .dword 8 4 stMem).toNat ∧
    0x1008 ∉ footprint .dword (accessAddr .dword 8 4 stMem).toNat ∧
    (∃ t, exec (.ldd 7 8 4) stMem = .next t) ∧ Instr.storeWidth (.ldd 7 8 4) = none ∧
    ramAt 0x2000 (small 0xFFF) = false ∧ ∃ t, exec (.std 9 8 0) (small 0xFFF) = .next t :=
  ⟨next_of_after (f := (·.pc)) (x := 0x104) (by decide), rfl, by decide, by decide,
    next_of_after (f := (·.pc)) (x := 0x104) (by decide), rfl, by decide,
    next_of_after (f := (·.pc)) (x := 0x104) (by decide)⟩

theorem witness_RegisterAndIpFrame : (∃ t, exec (.add 7 8 9) (st 1 2) = .next t) ∧ Instr.dest (.add 7 8 9) ≠ some 8 ∧
    Instr.setsIp (.add 7 8 9) = false :=
  ⟨next_of_after (f := (·.pc)) (x := 0x104) (by decide), by decide, rfl⟩

theorem witness_CsrAndPortFrame : (∃ t, exec (.inb 7 8 0) (st 0 0) = .next t) ∧ Instr.touchesCsrs (.inb 7 8 0) = false ∧
    (∃ t, exec (.csrw 8 1) (st 1 0) = .next t) ∧ Instr.portAccess (.csrw 8 1) = none :=
  ⟨next_of_after (f := (·.pc)) (x := 0x104) (by decide), rfl, next_of_after (f := (·.pc)) (x := 0x104) (by decide), rfl⟩

/-- A state at each level; the last is level 2, which no run reaches. -/
theorem witness_InterruptInstruction : mode (at100 .user 0 0) = .user ∧ mode (at100 .kernel 0 0) = .kernel ∧
    mode (at100 .machine 0 0) = .machine ∧ mode (at100 .reserved 0 0) = .reserved := by decide

/-- Each saved level, with bits above the field set in the last two. -/
theorem witness_MachineReturn : mode (st 0 0) = .machine ∧
    ({ st 0 0 with mpriv := 0 } : State).mpriv.toNat % 4 = PrivMode.level .user ∧
    ({ st 0 0 with mpriv := 1 } : State).mpriv.toNat % 4 = PrivMode.level .kernel ∧
    ({ st 0 0 with mpriv := 0xFFFFFFFF } : State).mpriv.toNat % 4 = PrivMode.level .machine ∧
    ({ st 0 0 with mpriv := 0xFFFFFFFE } : State).mpriv.toNat % 4 = 2 := by decide

theorem witness_SystemReturn : mode (at100 .kernel 0 0) ≠ .user ∧ mode (at100 .machine 0 0) ≠ .user ∧
    ({ at100 .kernel 0 0 with kpriv := 0 } : State).kpriv.toNat % 4 = PrivMode.level .user ∧
    ({ at100 .kernel 0 0 with kpriv := 1 } : State).kpriv.toNat % 4 = PrivMode.level .kernel ∧
    ({ at100 .kernel 0 0 with kpriv := 3 } : State).kpriv.toNat % 4 = PrivMode.level .machine ∧
    ({ at100 .kernel 0 0 with kpriv := 2 } : State).kpriv.toNat % 4 = 2 := by decide

theorem witness_ReturnUndoesTrap :
    ((∃ t, exec (.int 8) (at100 .user 0 0) = .next t) ∧ mode (at100 .user 0 0) = .user) ∧
    ((∃ t, exec (.int 8) (at100 .kernel 0 0) = .next t) ∧ mode (at100 .kernel 0 0) = .kernel) :=
  ⟨⟨next_of_after (f := mode) (x := .kernel) (by decide), by decide⟩,
    ⟨next_of_after (f := mode) (x := .machine) (by decide), by decide⟩⟩

/-- Each level at the ends of the ranges it reaches. -/
theorem witness_CsrMap :
    (mode (at100 .user 0 0) = .user ∧ csrAllowed 3071 (at100 .user 0 0) = false ∧ csrAllowed 3072 (at100 .user 0 0) = true) ∧
    (mode (at100 .kernel 0 0) = .kernel ∧ csrAllowed 2047 (at100 .kernel 0 0) = false ∧
      csrAllowed 2048 (at100 .kernel 0 0) = true) ∧
    (mode (st 0 0) = .machine ∧ csrAllowed 1023 (st 0 0) = true ∧ csrAllowed 1024 (st 0 0) = false ∧
      csrAllowed 2047 (st 0 0) = false ∧ csrAllowed 2048 (st 0 0) = true ∧ csrAllowed 4095 (st 0 0) = true) := by decide

/-- Into `mstatus`, into a reserved number, and refused. -/
theorem witness_CsrWrite : (csrAllowed 0 (st 3 0) = true ∧ (readReg 8 (st 3 0)).toNat / 2 % 4 ≠ 2) ∧
    csrAllowed 5 (st 3 0) = true ∧ csrAllowed 4 (at100 .kernel 3 0) = false := by decide

theorem witness_CsrRead : csrAllowed 0 (st 0 0) = true ∧ csrAllowed 2048 (st 0 0) = true ∧ csrAllowed 4 (st 0 0) = true ∧
    csrAllowed 2052 (st 0 0) = true ∧ (4 : CsrNum) ∈ definedCsrs ∧ csrAllowed 1024 (st 0 0) = false := by decide

/-- The lowest and the highest bit of `mra` (csr2), 0 and all ones before; a position and a number that do nothing. -/
theorem witness_CsrBitSetAndClear :
    (csrAllowed 2 (st 0 0) = true ∧ (0 : BitPos).toNat < 32 ∧
      ∀ b < 32, (1 : DWord).getLsbD b = (decide (b = (0 : BitPos).toNat) || (csrStored 2 (st 0 0)).getLsbD b)) ∧
    ((31 : BitPos).toNat < 32 ∧ ∀ b < 32, (0x7FFFFFFF : DWord).getLsbD b =
      (decide (b ≠ (31 : BitPos).toNat) && (csrStored 2 { st 0 0 with mra := 0xFFFFFFFF }).getLsbD b)) ∧
    32 ≤ (32 : BitPos).toNat ∧ csrAllowed 2 (at100 .kernel 0 0) = false := by decide

theorem witness_ReservedLevelFaults : mode (st 4 0) = .machine ∧ (readReg 8 (st 4 0)).toNat / 2 % 4 = 2 := by decide

theorem witness_PortInput : mode (at100 .kernel 0xFFFFFFFF 0) ≠ .user ∧
    portPresent (accessAddr .byte 8 0 (at100 .kernel 0xFFFFFFFF 0)) (at100 .kernel 0xFFFFFFFF 0) = true ∧
    portPresent (accessAddr .word 8 0 (at100 .kernel 0xFFFFFFFF 0)) (at100 .kernel 0xFFFFFFFF 0) = true ∧
    portPresent (accessAddr .dword 8 0 (at100 .kernel 0xFFFFFFFF 0)) (at100 .kernel 0xFFFFFFFF 0) = true := by decide

theorem witness_PortOutput : mode (st 0 0) ≠ .user ∧ portPresent (accessAddr .byte 8 0 (st 0 0)) (st 0 0) = true ∧
    portPresent (accessAddr .word 8 0 (st 0 0)) (st 0 0) = true ∧
    portPresent (accessAddr .dword 8 0 (st 0 0)) (st 0 0) = true := by decide

theorem witness_PrivilegeViolations : mode (at100 .user 0 0) = .user ∧ (Instr.portAccess (.inb 7 8 1)).isSome = true ∧
    mode (at100 .kernel 0 0) ≠ .machine := by decide

theorem witness_ExactProducts : (7 : RegNum) ≠ 0 := by decide

/-- A divisor that is not 0, with operands that are and that are not the overflowing pair. -/
theorem witness_DivisionLaw : (7 : RegNum) ≠ 0 ∧ readReg 9 (st 0x80000000 1) ≠ 0 ∧
    ¬((readReg 8 (st 0x80000000 1)).toInt = -2 ^ 31 ∧ (readReg 9 (st 0x80000000 1)).toInt = -1) := by decide

/-- A request already pending, and one that is presented now, at each level that takes it. -/
theorem witness_ExternalInterruptTaken :
    (pendingIrqs { at100 .user 0 0 with irqQueue := [0x40, 0x44] } = [0x40, 0x44] ∧ mode (at100 .user 0 0) = .user) ∧
    (pendingIrqs { at100 .kernel 0 0 with kstatus := 1, irqInput := [some { cause := 0x40, slot := 0 }] } = [0x40] ∧
      mode (at100 .kernel 0 0) = .kernel ∧ ({ at100 .kernel 0 0 with kstatus := 1 } : State).kstatus.getLsbD 0 = true) ∧
    (pendingIrqs { st 0 0 with mstatus := 7, irqQueue := [0x40], irqInput := [some { cause := 0x44, slot := 1 }] } =
      [0x40, 0x44] ∧ mode { st 0 0 with mstatus := 7 } = .machine ∧
      ({ st 0 0 with mstatus := 7 } : State).mstatus.getLsbD 0 = true) := by decide

theorem witness_MaskedInterruptWaits :
    (mode (at100 .kernel 0 0) = .kernel ∧ (at100 .kernel 0 0).kstatus.getLsbD 0 = false) ∧
    (mode (st 0 0) = .machine ∧ (st 0 0).mstatus.getLsbD 0 = false ∧ (st 0 0).platform.maskedIrq = .drop) ∧
    ({ Config.platform with maskedIrq := .queue 2 } : Platform).maskedIrq = .queue 2 := by decide

/-- IP at each kind of stop; a byte stored to at either end of the word; memory that ends at IP. -/
theorem witness_FetchFaults :
    (QuietBoundary { st 0 0 with pc := 0x101 } { st 0 0 with pc := 0x101 } ∧ (0x101 : DWord).toNat % 4 ≠ 0) ∧
    (QuietBoundary { st 0 0 with storedTo := [0x100, 0x103] } { st 0 0 with storedTo := [0x100, 0x103] } ∧
      (st 0 0).platform.fetch = .faultOnStale ∧ ∃ a ∈ [0x100, 0x103], (st 0 0).pc.toNat ≤ a ∧ a < (st 0 0).pc.toNat + 4) ∧
    (QuietBoundary { small 0 with pc := 0x1000, storedTo := [0xFFF, 0x1004] }
        { small 0 with pc := 0x1000, storedTo := [0xFFF, 0x1004] } ∧
      (∀ a ∈ [0xFFF, 0x1004], a < (0x1000 : DWord).toNat ∨ (0x1000 : DWord).toNat + 4 ≤ a) ∧
      mapped .dword 0x1000 (small 0) = false) :=
  ⟨⟨rfl, by decide⟩, ⟨rfl, by decide, by decide⟩, ⟨rfl, by decide, by decide⟩⟩

/-- After one step that stores, the next word is still fetched. -/
theorem witness_ProgramTextIsFixed : ∃ t w, Reaches (placed 0x0C0804A0) t ∧
    (placed 0x0C0804A0).platform.fetch = .faultOnStale ∧ fetch t = .ok w := by
  obtain ⟨t, h⟩ : ∃ t, step (placed 0x0C0804A0) = .next t := next_of_after (f := (·.pc)) (x := 4) (by decide)
  have hf : after (step (placed 0x0C0804A0)) (fun t => (fetch t).toOption) = some (some 0) := by decide
  rw [h] at hf
  cases e : fetch t with
  | error f => simp [after, e, Except.toOption] at hf
  | ok w => exact ⟨t, w, .tail (.refl _) h, by decide, e⟩

/-- A word placed at IP 0, at the level given. -/
def placedAt (m : PrivMode) (word : Nat) : State := setMode m (placed word)

/-- INT from User and from Kernel level, and SYSRET at Kernel level with `kpriv` = 3. -/
theorem witness_PrivilegeRisesOnlyByTrapOrSysret :
    (mode (placedAt .user 0x20000008) ≠ .reserved ∧ after (step (placedAt .user 0x20000008)) mode = some .kernel) ∧
    (mode (placedAt .kernel 0x20000008) ≠ .reserved ∧ after (step (placedAt .kernel 0x20000008)) mode = some .machine) ∧
    (after (step { placedAt .kernel 0x24001000 with kpriv := 3 }) mode = some .machine) := by decide

/-- A trap, and an instruction that stays. -/
theorem witness_UserStepIsConfined :
    (mode (placedAt .user 0x20000008) = .user ∧ ∃ t, step (placedAt .user 0x20000008) = .next t) ∧
    (mode (placedAt .user 0x00E80480) = .user ∧ ∃ t, step (placedAt .user 0x00E80480) = .next t) :=
  ⟨⟨by decide, next_of_after (f := mode) (x := .kernel) (by decide)⟩,
    ⟨by decide, next_of_after (f := mode) (x := .user) (by decide)⟩⟩

/-- A trap, SYSRET down and up, and CSRW of a Machine CSR, which does nothing. -/
theorem witness_KernelStepIsConfined :
    (mode (placedAt .kernel 0x20000008) = .kernel ∧ ∃ t, step (placedAt .kernel 0x20000008) = .next t) ∧
    (mode (placedAt .kernel 0x24001000) = .kernel ∧ ∃ t, step (placedAt .kernel 0x24001000) = .next t) ∧
    (∃ t, step { placedAt .kernel 0x24001000 with kpriv := 3 } = .next t) ∧
    (mode (placedAt .kernel 0x28070001) = .kernel ∧ ∃ t, step (placedAt .kernel 0x28070001) = .next t) :=
  ⟨⟨by decide, next_of_after (f := mode) (x := .machine) (by decide)⟩,
    ⟨by decide, next_of_after (f := mode) (x := .user) (by decide)⟩,
    next_of_after (f := mode) (x := .machine) (by decide),
    ⟨by decide, next_of_after (f := mode) (x := .kernel) (by decide)⟩⟩

/-- Two states that differ in the secrets, and the read of a secret CSR. -/
theorem witness_UserCannotReadSystemState :
    mode (at100 .user 1 2) = .user ∧ mode { at100 .user 1 2 with mra := 5, kcause := 6, kstatus := 1 } = .user ∧
    SameUserView (at100 .user 1 2) { at100 .user 1 2 with mra := 5, kcause := 6, kstatus := 1 } ∧
    ∃ t, exec (.csrr 7 2051) (at100 .user 1 2) = .next t :=
  ⟨by decide, by decide, ⟨fun _ => rfl, rfl, rfl, rfl, rfl, rfl, rfl, rfl, rfl, rfl⟩,
    next_of_after (f := (·.pc)) (x := 0x104) (by decide)⟩

/-- A load where there is memory, a store where there is RAM, and an M instruction, at User level. -/
theorem witness_BaseInstructionsAlwaysComplete :
    (Instr.extension (.ldd 7 8 0) = .base ∧ ∀ w rs1 imm, Instr.memAccess (.ldd 7 8 0) = some (w, rs1, imm) →
      mapped w (accessAddr w rs1 imm (at100 .user 0x1000 0)) (at100 .user 0x1000 0) = true) ∧
    (Instr.extension (.std 9 8 0) = .base ∧ ∀ w rs1 imm, Instr.storeWidth (.std 9 8 0) = some (w, rs1, imm) →
      writable w (accessAddr w rs1 imm (at100 .user 0x1000 0)) (at100 .user 0x1000 0) = true) ∧
    (Instr.extension (.mul 7 8 9) = .m ∧ Instr.memAccess (.mul 7 8 9) = none) := by
  refine ⟨⟨rfl, ?_⟩, ⟨rfl, ?_⟩, rfl, rfl⟩ <;>
    · rintro w rs1 imm h
      cases h
      decide

/-- One stop of each kind, and each way to the reserved level. -/
theorem witness_WhatStopsAnInstruction : exec (.stq 9 8 0) (st 0 0) = .fault .illegalInstruction ∧
    exec (.ldd 7 8 0) (small 0x1000) = .fault .unmappedAddress ∧ exec (.std 9 8 0) (small 0x2000) = .fault .storeToRom ∧
    exec (.inb 7 8 0) (small 0) = .fault .noPortDevice ∧
    exec .sysret (at100 .user 0 0) = .fault .privilegeViolation ∧ exec .mret (at100 .kernel 0 0) = .fault .privilegeViolation ∧
    exec (.int 0) { st 0 0 with mstatus := 4 } = .fault .reservedPrivilege ∧
    exec .mret { st 0 0 with mpriv := 2 } = .fault .reservedPrivilege ∧
    exec .sysret { st 0 0 with kpriv := 6 } = .fault .reservedPrivilege ∧
    exec (.csrw 8 0) (st 4 0) = .fault .reservedPrivilege ∧ exec (.csrc 0 1) (st 0 0) = .fault .reservedPrivilege :=
  ⟨fault_of (by decide), fault_of (by decide), fault_of (by decide), fault_of (by decide), fault_of (by decide),
    fault_of (by decide), fault_of (by decide), fault_of (by decide), fault_of (by decide), fault_of (by decide),
    fault_of (by decide)⟩

/-- Two different registers, neither `zr`; the same register twice; `zr` with another. -/
theorem witness_ExchangeSwaps : ((8 : RegNum) ≠ 9 ∧ (8 : RegNum) ≠ 0 ∧ (9 : RegNum) ≠ 0) ∧ (8 : RegNum) = 8 ∧
    ((0 : RegNum) ≠ 8 ∧ ((0 : RegNum) = 0 ∨ (8 : RegNum) = 0)) := by decide

/-- EncodeOfDecode and DecoderAgreesWithOpcodeTable: words that decode and words that match a row. -/
theorem witness_decoding : decodeWord 0x27FF3F80 = .ok .mret ∧ (0x27FF3F80 : DWord) &&& tableMask .mret = tableMatch .mret ∧
    fn7MustBeZero 0x27FF3F80 = false ∧ (0x00E80480 : DWord) &&& tableMask (.add 7 8 9) = tableMatch (.add 7 8 9) ∧
    fn7MustBeZero 0x00E80480 = true ∧ fieldFn7 0x00E80480 = 0 := by decide

end Sys2Proof.Tests
end

section
/-! SUPPORT. The step (R12) followed from the boundary through the fetch and the decoder to `exec`. -/

namespace Sys2Proof.Machine

/-! ## A boundary that takes no interrupt -/

/-- A quiet boundary leaves everything but the pending and the coming requests. -/
theorem QuietBoundary.eq_afterBoundary {s t : State} (h : QuietBoundary s t) : ∃ q, t = afterBoundary q s := by
  obtain ⟨q, hq⟩ := boundary_fst s
  exact ⟨q, (congrArg Prod.fst h).symm.trans hq⟩

/-- After a quiet boundary the step is the running of one instruction. -/
theorem QuietBoundary.step_eq {s t : State} (h : QuietBoundary s t) : step s = runInstruction t := by
  have hb : boundary s = (t, none) := h
  rw [step, hb]

/-! ## The fetch (R61, R66, R80) -/

/-- The boundary changes nothing the fetch reads. -/
@[simp] theorem fetch_afterBoundary (q : List DWord) (s : State) : fetch (afterBoundary q s) = fetch s := rfl

/-- Where no fault of the fetch applies, it gives the four bytes at IP, the first the most significant. -/
theorem fetch_ok {s : State} (ha : s.pc.extractLsb' 0 2 = 0) (hm : mapped .dword s.pc s = true)
    (hc : s.platform.fetch = .coherent ∨ fetchIsStale s = false) :
    fetch s = .ok (wordOfBytes (s.mem.read s.pc.toNat) (s.mem.read (s.pc.toNat + 1)) (s.mem.read (s.pc.toNat + 2))
      (s.mem.read (s.pc.toNat + 3))) := by
  have hstale : ¬(s.platform.fetch = .faultOnStale ∧ fetchIsStale s = true) := by
    rintro ⟨hp, hs⟩
    rcases hc with hc | hc
    · simp [hp] at hc
    · simp [hs] at hc
  rw [fetch, if_neg (not_not_intro ha), if_neg hstale]
  exact loadMem_ok.2 ⟨hm, rfl⟩

/-! ## The decoder on four bytes -/

/-- Four bytes decode to an instruction exactly when their word does. -/
theorem decode_four {b0 b1 b2 b3 : Byte} {i : Instr} :
    decode [b0, b1, b2, b3] = .ok (i, []) ↔ decodeWord (wordOfBytes b0 b1 b2 b3) = .ok i := by
  cases h : decodeWord (wordOfBytes b0 b1 b2 b3) <;> simp [decode, h]

/-- A fetched word of an instruction the variant assigns is executed. -/
theorem runInstruction_eq_exec {s : State} {w : DWord} {i : Instr} (hf : fetch s = .ok w) (hd : decodeWord w = .ok i)
    (hi : i.assigned s.platform.variant = true) : runInstruction s = exec i s := by
  have hdec : decode (bytesOfWord w) = .ok (i, []) := decode_four.2 (by rw [wordOfBytes_bytes, hd])
  simp only [runInstruction, hf, hdec, hi, if_true]

/-! ## The step -/

/-- Settles O6: the fetch sees the same state before and after a quiet boundary, and its word is that of the four bytes. -/
theorem stepRunsTheDecodedInstruction : Obligations.StepRunsTheDecodedInstruction := by
  intro s t i hq ha hm hc hd hi
  have hstep : step s = runInstruction t := hq.step_eq
  obtain ⟨q, rfl⟩ := hq.eq_afterBoundary
  have hfetch := (fetch_afterBoundary q s).trans (fetch_ok ha hm hc)
  exact ⟨hstep.trans (runInstruction_eq_exec hfetch (decode_four.1 hd) hi), rfl⟩

end Sys2Proof.Machine
end

section
/-! SUPPORT. What an instruction leaves alone and what every step keeps: the frames of registers, IP, CSRs and ports
(R21 to R30, R46), the invariant (R21, R401, R415), the machine after reset (R49) and the map of the CSRs (R31, R32). -/

namespace Sys2Proof.Machine

/-! ## Trap entry, return and CSR write: what they leave alone -/

/-- From `s` to `t` nothing but CSRs and IP changed. -/
def OnlyCsrsAndIp (s t : State) : Prop :=
  t.regs = s.regs ∧ t.mem = s.mem ∧ t.storedTo = s.storedTo ∧ SameOutside s t

theorem trapEnter_onlyCsrsAndIp {c ra : DWord} {s t : State} (h : trapEnter c ra s = .next t) : OnlyCsrsAndIp s t := by
  rcases trapEnter_next h with ⟨_, rfl⟩ | ⟨_, rfl⟩ | ⟨_, rfl⟩ <;> exact ⟨rfl, rfl, rfl, rfl, rfl, rfl, rfl, rfl⟩

theorem trapReturn_onlyCsrsAndIp {ra v : DWord} {s t : State} (h : trapReturn ra v s = .next t) :
    OnlyCsrsAndIp s t := by
  obtain ⟨_, rfl⟩ := trapReturn_next h
  exact ⟨rfl, rfl, rfl, rfl, rfl, rfl, rfl, rfl⟩

theorem writeCsr_onlyCsrsAndIp {k : CsrNum} {v : DWord} {s t : State} (h : writeCsr k v s = .next t) :
    OnlyCsrsAndIp s t := by
  rcases writeCsr_next h with ⟨_, rfl⟩ | ⟨_, _, rfl⟩ <;> simp [OnlyCsrsAndIp, SameOutside, SameIrqs]

/-- A CSR write, refused or not, is the end of an instruction that does not jump. -/
theorem writeCsr_pc {k : CsrNum} {v : DWord} {s t : State} (h : writeCsr k v s = .next t) : t.pc = s.pc + 4 := by
  rcases writeCsr_next h with ⟨_, rfl⟩ | ⟨_, _, rfl⟩ <;> simp

theorem OnlyCsrsAndIp.readReg {s t : State} (h : OnlyCsrsAndIp s t) (r : RegNum) :
    Machine.readReg r t = Machine.readReg r s := by
  obtain ⟨hregs, _⟩ := h
  exact readReg_congr hregs r

theorem OnlyCsrsAndIp.portTrace {s t : State} (h : OnlyCsrsAndIp s t) : t.portTrace = s.portTrace := by
  obtain ⟨_, _, _, hport, _⟩ := h
  exact hport

/-! ## The frame of every instruction -/

/-- A write to the destination of an instruction (or to r0, which is none) leaves the other registers alone. -/
theorem readReg_writeReg_dest {i : Instr} {r d : RegNum} (v : DWord) (s : State) (hd : i.dest = some d ∨ d = 0)
    (hr : i.dest ≠ some r) : readReg r (writeReg d v s) = readReg r s := by
  rcases hd with hd | rfl
  · have hne : r ≠ d := by
      rintro rfl
      exact hr hd
    exact readReg_writeReg_other v s hne
  · rw [writeReg_zero]

/-- R24: no register changes but the destination. -/
theorem exec_readReg {i : Instr} {s t : State} (h : exec i s = .next t) {r : RegNum} (hr : i.dest ≠ some r) :
    readReg r t = readReg r s := by
  rcases exec_next h with ⟨rd, v, target, hd, -, -, rfl⟩ | ⟨w, rs2, rs1, imm, -, h⟩ | ⟨imm, rfl, h⟩ | ⟨rfl, -, h⟩ |
    ⟨rfl, -, h⟩ | ⟨k, v, -, -, h⟩ | ⟨rd, k, v, rfl, rfl⟩ | ⟨p, rd, v, -, hd, -, -, rfl⟩
  · exact readReg_writeReg_dest v s hd hr
  · obtain ⟨-, rfl⟩ := store_next h
    rfl
  · exact (trapEnter_onlyCsrsAndIp h).readReg r
  · exact (trapReturn_onlyCsrsAndIp h).readReg r
  · exact (trapReturn_onlyCsrsAndIp h).readReg r
  · exact (writeCsr_onlyCsrsAndIp h).readReg r
  · exact readReg_writeReg_dest v { s with freeDraws := s.freeDraws + 1 } (.inl rfl) hr
  · exact readReg_writeReg_dest v (recordPort p s) hd hr

/-- R25, R27: IP advances by 4 unless the instruction may set it. -/
theorem exec_pc {i : Instr} {s t : State} (h : exec i s = .next t) (hi : i.setsIp = false) : t.pc = s.pc + 4 := by
  rcases exec_next h with ⟨rd, v, target, -, htarget, -, rfl⟩ | ⟨w, rs2, rs1, imm, -, h⟩ | ⟨imm, rfl, -⟩ | ⟨rfl, -, -⟩ |
    ⟨rfl, -, -⟩ | ⟨k, v, -, -, h⟩ | ⟨rd, k, v, -, rfl⟩ | ⟨p, rd, v, -, -, -, -, rfl⟩
  · rw [setPc_pc, htarget hi]
  · obtain ⟨-, rfl⟩ := store_next h
    rfl
  · cases hi
  · cases hi
  · cases hi
  · exact writeCsr_pc h
  · simp
  · simp

/-- R30: the CSRs are changed by the three CSR writes, the trap and the two returns only. -/
theorem exec_sameCsrs {i : Instr} {s t : State} (h : exec i s = .next t) (hi : i.touchesCsrs = false) :
    SameCsrs s t := by
  rcases exec_next h with ⟨rd, v, target, -, -, -, rfl⟩ | ⟨w, rs2, rs1, imm, -, h⟩ | ⟨imm, rfl, -⟩ | ⟨rfl, -, -⟩ |
    ⟨rfl, -, -⟩ | ⟨k, v, htouches, -, -⟩ | ⟨rd, k, v, -, rfl⟩ | ⟨p, rd, v, -, -, -, -, rfl⟩
  · exact sameCsrs_writeReg rd v target s
  · obtain ⟨-, rfl⟩ := store_next h
    exact sameCsrs_refl s
  · cases hi
  · cases hi
  · cases hi
  · rw [htouches] at hi
    cases hi
  · exact sameCsrs_writeReg rd v _ { s with freeDraws := s.freeDraws + 1 }
  · exact sameCsrs_writeReg rd v _ (recordPort p s)

/-- R46: the port space is reached by the port instructions only. -/
theorem exec_portTrace {i : Instr} {s t : State} (h : exec i s = .next t) (hi : i.portAccess = none) :
    t.portTrace = s.portTrace := by
  rcases exec_next h with ⟨rd, v, target, -, -, -, rfl⟩ | ⟨w, rs2, rs1, imm, -, h⟩ | ⟨imm, -, h⟩ | ⟨-, -, h⟩ |
    ⟨-, -, h⟩ | ⟨k, v, -, -, h⟩ | ⟨rd, k, v, -, rfl⟩ | ⟨p, rd, v, hport, -, -, -, -⟩
  · simp
  · obtain ⟨-, rfl⟩ := store_next h
    rfl
  · exact (trapEnter_onlyCsrsAndIp h).portTrace
  · exact (trapReturn_onlyCsrsAndIp h).portTrace
  · exact (trapReturn_onlyCsrsAndIp h).portTrace
  · exact (writeCsr_onlyCsrsAndIp h).portTrace
  · simp
  · simp [hi] at hport

/-- Settles O26, shape by shape of `exec_next`. -/
theorem registerAndIpFrame : Obligations.RegisterAndIpFrame :=
  fun _ _ t h => ⟨fun _ hr => exec_readReg h hr, readReg_zero t, exec_pc h⟩

/-- Settles O27, shape by shape of `exec_next`. -/
theorem csrAndPortFrame : Obligations.CsrAndPortFrame :=
  fun _ _ _ h => ⟨exec_sameCsrs h, exec_portTrace h⟩

/-! ## No operation reaches the reserved level (R401, D19) -/

theorem trapEnter_mode_ne_reserved {c ra : DWord} {s t : State} (h : trapEnter c ra s = .next t) :
    mode t ≠ .reserved := by
  rcases trapEnter_next h with ⟨hm, rfl⟩ | ⟨_, rfl⟩ | ⟨_, rfl⟩ <;> simp [*]

theorem trapReturn_mode_ne_reserved {ra v : DWord} {s t : State} (h : trapReturn ra v s = .next t) :
    mode t ≠ .reserved := by
  obtain ⟨hv, rfl⟩ := trapReturn_next h
  rwa [mode_setMode]

/-- A write that is not stopped for the reserved level leaves the mode, or is to csr0 and sets another level. -/
theorem mode_setCsr_ne_reserved {k : CsrNum} {v : DWord} {s : State} (hm : mode s ≠ .reserved)
    (hv : writesReservedMode k v = false) : mode (setCsr k v s) ≠ .reserved := by
  rw [mode, setCsr_mstatus]
  split
  · simp_all [writesReservedMode]
  · exact hm

theorem writeCsr_mode_ne_reserved {k : CsrNum} {v : DWord} {s t : State} (hm : mode s ≠ .reserved)
    (h : writeCsr k v s = .next t) : mode t ≠ .reserved := by
  rcases writeCsr_next h with ⟨_, rfl⟩ | ⟨_, hv, rfl⟩
  · exact hm
  · exact mode_setCsr_ne_reserved hm hv

/-! ## The invariant: one rule per operation -/

/-- An operation on CSRs keeps the invariant when it keeps off the reserved level. -/
theorem StateInv.onlyCsrsAndIp {s t : State} (hs : StateInv s) (h : OnlyCsrsAndIp s t) (hm : mode t ≠ .reserved) :
    StateInv t := by
  obtain ⟨_, hslot, hmem, hstored, hqueue⟩ := hs
  obtain ⟨hregs', hmem', hstored', _, _, hqueue', _, hplatform'⟩ := h
  refine ⟨hm, ?_, ?_, ?_, ?_⟩
  · rwa [hregs']
  · rwa [hmem']
  · rwa [hstored']
  · rwa [hqueue', hplatform']

theorem StateInv.trapEnter {c ra : DWord} {s t : State} (hs : StateInv s) (h : trapEnter c ra s = .next t) :
    StateInv t :=
  hs.onlyCsrsAndIp (trapEnter_onlyCsrsAndIp h) (trapEnter_mode_ne_reserved h)

theorem StateInv.trapReturn {ra v : DWord} {s t : State} (hs : StateInv s) (h : trapReturn ra v s = .next t) :
    StateInv t :=
  hs.onlyCsrsAndIp (trapReturn_onlyCsrsAndIp h) (trapReturn_mode_ne_reserved h)

theorem StateInv.writeCsr {k : CsrNum} {v : DWord} {s t : State} (hs : StateInv s) (h : writeCsr k v s = .next t) :
    StateInv t := by
  have ⟨hm, _⟩ := hs
  exact hs.onlyCsrsAndIp (writeCsr_onlyCsrsAndIp h) (writeCsr_mode_ne_reserved hm h)

theorem StateInv.setPc {s : State} (hs : StateInv s) (target : DWord) : StateInv (setPc target s) := hs

theorem StateInv.advance {s : State} (hs : StateInv s) : StateInv (advance s) := hs

theorem StateInv.recordPort {s : State} (hs : StateInv s) (p : PortAccess) : StateInv (recordPort p s) := hs

/-- R21: a register write never reaches slot 0. -/
theorem StateInv.writeReg {s : State} (hs : StateInv s) (rd : RegNum) (v : DWord) : StateInv (writeReg rd v s) := by
  obtain ⟨hm, hslot, hmem, hstored, hqueue⟩ := hs
  refine ⟨?_, ?_, ?_, ?_, ?_⟩
  · rwa [mode_writeReg]
  · rwa [writeReg_slot_zero]
  · rwa [writeReg_mem]
  · rwa [writeReg_storedTo]
  · rwa [writeReg_irqQueue, writeReg_platform]

/-- R63, R64: an access is aligned, so a store stays inside the address space and keeps the canonical forms. -/
theorem StateInv.store {w : Width} {rs2 rs1 : RegNum} {imm : Imm12} {s t : State} (hs : StateInv s)
    (h : store w rs2 rs1 imm s = .next t) : StateInv t := by
  obtain ⟨hm, hslot, hmem, hstored, hqueue⟩ := hs
  obtain ⟨-, rfl⟩ := store_next h
  have hlt := footprint_accessAddr_lt w rs1 imm s
  exact ⟨hm, hslot, Memory.writeBE_wf w _ hmem hlt, addrInsertAll_rise hstored hlt, hqueue⟩

/-- R415: whatever a boundary leaves pending, it keeps no more than the implementation does. -/
theorem StateInv.afterBoundary {s : State} (hs : StateInv s) (q : List DWord) : StateInv (afterBoundary q s) := by
  obtain ⟨hm, hslot, hmem, hstored, -⟩ := hs
  exact ⟨hm, hslot, hmem, hstored, List.length_take_le _ q⟩

theorem StateInv.boundary {s u : State} {c : Option DWord} (hs : StateInv s) (h : boundary s = (u, c)) :
    StateInv u := by
  obtain ⟨q, hq⟩ := boundary_fst s
  obtain rfl : u = Machine.afterBoundary q s := by rw [← hq, h]
  exact hs.afterBoundary q

/-! ## Every step keeps the invariant -/

theorem StateInv.exec {i : Instr} {s t : State} (hs : StateInv s) (h : exec i s = .next t) : StateInv t := by
  rcases exec_next h with ⟨rd, v, target, -, -, -, rfl⟩ | ⟨w, rs2, rs1, imm, -, h⟩ | ⟨imm, -, h⟩ | ⟨-, -, h⟩ |
    ⟨-, -, h⟩ | ⟨k, v, -, -, h⟩ | ⟨rd, k, v, -, rfl⟩ | ⟨p, rd, v, -, -, -, -, rfl⟩
  · exact (hs.writeReg rd v).setPc target
  · exact hs.store h
  · exact hs.trapEnter h
  · exact hs.trapReturn h
  · exact hs.trapReturn h
  · exact hs.writeCsr h
  · have hdraw : StateInv { s with freeDraws := s.freeDraws + 1 } := hs
    exact (hdraw.writeReg rd v).advance
  · exact ((hs.recordPort p).writeReg rd v).advance

/-- Settles O11: the boundary keeps the invariant, and so does the trap entry or the instruction that follows it. -/
theorem stepKeepsInv : Obligations.StepKeepsInv := by
  intro s t hs h
  rcases step_next h with ⟨u, c, hb, htrap⟩ | ⟨u, hb, hrun⟩
  · exact (hs.boundary hb).trapEnter htrap
  · obtain ⟨_, _, -, -, -, hexec⟩ := runInstruction_next hrun
    exact (hs.boundary hb).exec hexec

/-! ## Which CSR numbers a level reaches (R31, R32) -/

/-- The ranges of CSR numbers by the level they need; 1024 to 2047 belong to none. -/
theorem csrAllowed_iff (k : CsrNum) (s : State) : csrAllowed k s = true ↔
    (k.toNat < 1024 ∧ 3 ≤ (mode s).level) ∨ (2048 ≤ k.toNat ∧ k.toNat < 3072 ∧ 1 ≤ (mode s).level) ∨
    3072 ≤ k.toNat := by
  unfold csrAllowed csrNeed
  split_ifs with h1024 h2048 h3072
  · have hlevel : PrivMode.level .machine = 3 := rfl
    simp only [hlevel, decide_eq_true_eq]
    omega
  · simp only [false_iff]
    omega
  · have hlevel : PrivMode.level .kernel = 1 := rfl
    simp only [hlevel, decide_eq_true_eq]
    omega
  · have hlevel : PrivMode.level .user = 0 := rfl
    simp only [hlevel, decide_eq_true_eq]
    omega

/-- Settles O34: the reach of each level by its number, the places of the CSRs by evaluation. -/
theorem csrMap : Obligations.CsrMap := by
  intro k s
  refine ⟨fun hm => ?_, fun hm => ?_, fun hm => ?_, rfl, rfl, rfl, rfl, rfl, rfl, rfl, rfl, rfl, rfl⟩ <;>
    rw [csrAllowed_iff, hm] <;> simp only [PrivMode.level] <;> omega

/-! ## Reset (R26, R49) -/

/-- Settles O9 by the fields of `State.reset`. -/
theorem resetModeAndMasks : Obligations.ResetModeAndMasks := by
  refine ⟨?_, ?_, ?_, rfl, rfl, readReg_zero _⟩ <;> decide

/-- Settles O10: every list of the reset state is empty, so what is left to see is its mode and slot 0. -/
theorem resetMeetsInv : Obligations.ResetMeetsInv := by
  obtain ⟨hm, -, -, hqueue, -, -⟩ := resetModeAndMasks
  refine ⟨?_, rfl, rfl, rfl, ?_⟩
  · simp [hm]
  · simp [hqueue]

/-- R415: Machine level with MIE clear takes no external interrupt. -/
theorem acceptsIrq_of_machine_masked {s : State} (hm : mode s = .machine) (hmie : s.mstatus.getLsbD 0 = false) :
    acceptsIrq s = false := by
  simp only [acceptsIrq, hm, hmie]

/-- Where no request is taken or presented the boundary is quiet. -/
theorem quietBoundary_of_masked {s : State} (ha : acceptsIrq s = false) (hp : pendingIrqs s = []) :
    QuietBoundary s (afterBoundary [] s) := by
  simp [QuietBoundary, boundary, ha, hp]

/-- D13, D22: at reset external interrupts are off and none is presented, so the boundary changes nothing. -/
theorem reset_quietBoundary (m : Memory) :
    QuietBoundary { State.reset with mem := m } { State.reset with mem := m } := by
  obtain ⟨hm, hmie, -⟩ := resetModeAndMasks
  have hm' : mode { State.reset with mem := m } = .machine := (mode_congr (s := State.reset) rfl).trans hm
  exact quietBoundary_of_masked (acceptsIrq_of_machine_masked hm' hmie) rfl

theorem reset_mapped_zero : mapped .dword 0 State.reset = true := by decide

/-- Settles O8: the step at reset is that of R12, with the boundary quiet, IP aligned, RAM at IP and no byte stored to. -/
theorem resetEntryPoint : Obligations.ResetEntryPoint := by
  refine ⟨rfl, fun m i hd hi => ?_⟩
  have hmapped : mapped .dword 0 { State.reset with mem := m } = true :=
    (mapped_congr (s := State.reset) rfl .dword 0).trans reset_mapped_zero
  obtain ⟨hstep, -⟩ := stepRunsTheDecodedInstruction _ _ i (reset_quietBoundary m) rfl hmapped (.inr rfl) hd hi
  exact hstep

end Sys2Proof.Machine
end

section
/-! SUPPORT. What stops an access or a fetch that has nothing behind its address (R68, R278), the faults of the fetch
(R66, R80) and the program text that fetching without stale words keeps fixed (R75, R80). -/

namespace Sys2Proof.Machine

/-! ## Accesses with nothing behind the address -/

theorem load_of_not_mapped {w : Width} (x : Ext) (rd : RegNum) {rs1 : RegNum} {imm : Imm12} {s : State}
    (h : mapped w (accessAddr w rs1 imm s) s = false) : load w x rd rs1 imm s = .fault .unmappedAddress := by
  rw [load, loadMem_error.2 ⟨h, rfl⟩]

theorem store_of_not_mapped {w : Width} (rs2 : RegNum) {rs1 : RegNum} {imm : Imm12} {s : State}
    (h : mapped w (accessAddr w rs1 imm s) s = false) : store w rs2 rs1 imm s = .fault .unmappedAddress := by
  rw [store, storeMem_error.2 (.inl ⟨rfl, h⟩)]

theorem store_of_rom {w : Width} (rs2 : RegNum) {rs1 : RegNum} {imm : Imm12} {s : State}
    (hm : mapped w (accessAddr w rs1 imm s) s = true) (hw : writable w (accessAddr w rs1 imm s) s = false) :
    store w rs2 rs1 imm s = .fault .storeToRom := by
  rw [store, storeMem_error.2 (.inr ⟨rfl, hm, hw⟩)]

/-- R260, R278: "level 1 and up" is every level but User. -/
theorem PrivMode.level_lt_one_iff (m : PrivMode) : m.level < 1 ↔ m = .user := by
  cases m <;> decide

theorem portIn_of_absent {w : Width} (x : Ext) (rd : RegNum) {rs1 : RegNum} {imm : Imm12} {s : State}
    (hm : mode s ≠ .user) (h : portPresent (accessAddr w rs1 imm s) s = false) :
    portIn w x rd rs1 imm s = .fault .noPortDevice := by
  rw [portIn, if_neg (mt (PrivMode.level_lt_one_iff _).1 hm), if_neg (ne_true_of_eq_false h)]

theorem portOut_of_absent {w : Width} (rs2 : RegNum) {rs1 : RegNum} {imm : Imm12} {s : State}
    (hm : mode s ≠ .user) (h : portPresent (accessAddr w rs1 imm s) s = false) :
    portOut w rs2 rs1 imm s = .fault .noPortDevice := by
  rw [portOut, if_neg (mt (PrivMode.level_lt_one_iff _).1 hm), if_neg (ne_true_of_eq_false h)]

/-! ## The instructions by the access they make -/

/-- What `storeWidth` names is run as a store of that width, base and displacement. -/
theorem exec_eq_store {i : Instr} {w : Width} {rs1 : RegNum} {imm : Imm12} (h : i.storeWidth = some (w, rs1, imm)) :
    ∃ rs2, ∀ s, exec i s = store w rs2 rs1 imm s := by
  cases i with
  | stb rs2 | stw rs2 | std rs2 =>
    cases h
    exact ⟨rs2, fun _ => rfl⟩
  | _ => cases h

/-- What `memAccess` names is run as a store or as a load of that width, base and displacement. -/
theorem exec_eq_store_or_load {i : Instr} {w : Width} {rs1 : RegNum} {imm : Imm12}
    (h : i.memAccess = some (w, rs1, imm)) :
    (∃ rs2, ∀ s, exec i s = store w rs2 rs1 imm s) ∨ (∃ x rd, ∀ s, exec i s = load w x rd rs1 imm s) := by
  cases i with
  | stb rs2 | stw rs2 | std rs2 =>
    cases h
    exact .inl ⟨rs2, fun _ => rfl⟩
  | ldb rd | ldw rd | ldd rd | ldsb rd | ldsw rd =>
    cases h
    exact .inr ⟨_, rd, fun _ => rfl⟩
  | _ => cases h

/-- What `portAccess` names is run as a port input or output of that width, base and displacement. -/
theorem exec_eq_portIn_or_portOut {i : Instr} {w : Width} {rs1 : RegNum} {imm : Imm12}
    (h : i.portAccess = some (w, rs1, imm)) :
    (∃ x rd, ∀ s, exec i s = portIn w x rd rs1 imm s) ∨ (∃ rs2, ∀ s, exec i s = portOut w rs2 rs1 imm s) := by
  cases i with
  | inb rd | inw rd | ind rd | insb rd | insw rd =>
    cases h
    exact .inl ⟨_, rd, fun _ => rfl⟩
  | outb rs2 | outw rs2 | outd rs2 =>
    cases h
    exact .inr ⟨rs2, fun _ => rfl⟩
  | _ => cases h

/-- Settles O23: each access is one of the shared operations, and each of those has its own stop. -/
theorem nothingBehindTheAddress : Obligations.NothingBehindTheAddress := by
  intro i w rs1 imm s
  refine ⟨fun hi hm => ?_, fun hi hm hw => ?_, fun hi hm hp => ?_⟩
  · rcases exec_eq_store_or_load hi with ⟨rs2, hexec⟩ | ⟨x, rd, hexec⟩
    · exact (hexec s).trans (store_of_not_mapped rs2 hm)
    · exact (hexec s).trans (load_of_not_mapped x rd hm)
  · obtain ⟨rs2, hexec⟩ := exec_eq_store hi
    exact (hexec s).trans (store_of_rom rs2 hm hw)
  · rcases exec_eq_portIn_or_portOut hi with ⟨x, rd, hexec⟩ | ⟨rs2, hexec⟩
    · exact (hexec s).trans (portIn_of_absent x rd hm hp)
    · exact (hexec s).trans (portOut_of_absent rs2 hm hp)

/-! ## The faults of the fetch, in the order of R423 -/

theorem mem_footprint_dword {p a : Nat} : a ∈ footprint .dword p ↔ p ≤ a ∧ a < p + 4 := by
  simp only [footprint, List.mem_cons, List.not_mem_nil, or_false]
  omega

/-- R66: `pc[1:0]` as a remainder. -/
theorem extractLsb_zero_two_eq_zero_iff (v : DWord) : v.extractLsb' 0 2 = 0 ↔ v.toNat % 4 = 0 := by
  rw [← BitVec.toNat_inj, slice_toNat]
  simp

/-- R80: a fetch is stale when a store has written one of the four bytes at IP. -/
theorem fetchIsStale_iff (s : State) :
    fetchIsStale s = true ↔ ∃ a ∈ s.storedTo, s.pc.toNat ≤ a ∧ a < s.pc.toNat + 4 := by
  simp only [fetchIsStale, List.any_eq_true, List.contains_iff_mem, mem_footprint_dword]
  exact exists_congr fun _ => and_comm

theorem fetch_misaligned {s : State} (h : s.pc.toNat % 4 ≠ 0) : fetch s = .error .misalignedFetch := by
  rw [fetch, if_pos (mt (extractLsb_zero_two_eq_zero_iff s.pc).1 h)]

theorem fetch_stale {s : State} (ha : s.pc.toNat % 4 = 0) (hf : s.platform.fetch = .faultOnStale)
    (hs : fetchIsStale s = true) : fetch s = .error .staleFetch := by
  rw [fetch, if_neg (not_not_intro ((extractLsb_zero_two_eq_zero_iff s.pc).2 ha)), if_pos ⟨hf, hs⟩]

/-- An aligned fetch that is not stale, or need not be coherent, is a load of the dword at IP. -/
theorem fetch_eq_loadMem {s : State} (ha : s.pc.toNat % 4 = 0)
    (hs : ¬(s.platform.fetch = .faultOnStale ∧ fetchIsStale s = true)) : fetch s = loadMem .dword s.pc s := by
  rw [fetch, if_neg (not_not_intro ((extractLsb_zero_two_eq_zero_iff s.pc).2 ha)), if_neg hs]

/-- A word the fetch gives is the dword at IP, and it is not stale where a stale word is a fault. -/
theorem fetch_ok_word {s : State} {w : DWord} (h : fetch s = .ok w) :
    ¬(s.platform.fetch = .faultOnStale ∧ fetchIsStale s = true) ∧ w = s.mem.readBE .dword s.pc.toNat := by
  by_cases ha : s.pc.toNat % 4 = 0
  · by_cases hs : s.platform.fetch = .faultOnStale ∧ fetchIsStale s = true
    · obtain ⟨hf, hstale⟩ := hs
      rw [fetch_stale ha hf hstale] at h
      cases h
    · rw [fetch_eq_loadMem ha hs] at h
      obtain ⟨-, hw⟩ := loadMem_ok.1 h
      exact ⟨hs, hw⟩
  · rw [fetch_misaligned ha] at h
    cases h

/-- At a boundary that takes no interrupt a fault of the fetch is the outcome of the step. -/
theorem QuietBoundary.step_of_fetch_error {s t : State} {f : Fault} (hq : QuietBoundary s t)
    (hf : fetch s = .error f) : step s = .fault f := by
  rw [hq.step_eq]
  obtain ⟨q, rfl⟩ := hq.eq_afterBoundary
  rw [runInstruction, fetch_afterBoundary, hf]

/-- Settles O48: the step stops with the first fault of the fetch. -/
theorem fetchFaults : Obligations.FetchFaults := by
  intro s t hq
  refine ⟨fun ha => ?_, fun ha hf hs => ?_, fun ha hs hm => ?_⟩
  · exact hq.step_of_fetch_error (fetch_misaligned ha)
  · exact hq.step_of_fetch_error (fetch_stale ha hf ((fetchIsStale_iff s).2 hs))
  · have hfresh : ¬(s.platform.fetch = .faultOnStale ∧ fetchIsStale s = true) := by
      rw [fetchIsStale_iff]
      rintro ⟨hf, a, hmem, hlo, hhi⟩
      rcases hs with hc | hnone
      · simp [hc] at hf
      · have := hnone a hmem
        omega
    exact hq.step_of_fetch_error ((fetch_eq_loadMem ha hfresh).trans (loadMem_error.2 ⟨hm, rfl⟩))

/-! ## What a run keeps of memory -/

/-- From `s` to `t` memory, the record of stores and the platform are the same. -/
def KeepsMem (s t : State) : Prop := t.mem = s.mem ∧ t.storedTo = s.storedTo ∧ t.platform = s.platform

theorem OnlyCsrsAndIp.keepsMem {s t : State} (h : OnlyCsrsAndIp s t) : KeepsMem s t := by
  obtain ⟨-, hmem, hstored, -, -, -, -, hplatform⟩ := h
  exact ⟨hmem, hstored, hplatform⟩

theorem boundary_keepsMem {s u : State} {c : Option DWord} (h : boundary s = (u, c)) : KeepsMem s u := by
  obtain ⟨q, hq⟩ := boundary_fst s
  obtain rfl : u = afterBoundary q s := by rw [← hq, h]
  exact ⟨rfl, rfl, rfl⟩

/-- A completed instruction is a store, or leaves memory and its record alone. -/
theorem exec_store_or_keepsMem {i : Instr} {s t : State} (h : exec i s = .next t) :
    (∃ w rs2 rs1 imm, i.storeWidth = some (w, rs1, imm) ∧ store w rs2 rs1 imm s = .next t) ∨
    (i.storeWidth = none ∧ KeepsMem s t) := by
  rcases exec_next h with ⟨rd, v, target, -, -, hi, rfl⟩ | hstore | ⟨imm, rfl, h⟩ | ⟨rfl, -, h⟩ |
    ⟨rfl, -, h⟩ | ⟨k, v, -, hi, h⟩ | ⟨rd, k, v, rfl, rfl⟩ | ⟨p, rd, v, -, -, hi, -, rfl⟩
  · exact .inr ⟨hi, by simp [KeepsMem]⟩
  · exact .inl hstore
  · exact .inr ⟨rfl, (trapEnter_onlyCsrsAndIp h).keepsMem⟩
  · exact .inr ⟨rfl, (trapReturn_onlyCsrsAndIp h).keepsMem⟩
  · exact .inr ⟨rfl, (trapReturn_onlyCsrsAndIp h).keepsMem⟩
  · exact .inr ⟨hi, (writeCsr_onlyCsrsAndIp h).keepsMem⟩
  · exact .inr ⟨rfl, by simp [KeepsMem]⟩
  · exact .inr ⟨hi, by simp [KeepsMem]⟩

/-- From `s` to `t` the platform stayed, and a byte that is not on the record of stores at the end was not on it at the
start and reads as it did (R80; log 13). -/
def KeepsUnstored (s t : State) : Prop :=
  t.platform = s.platform ∧ ∀ a, a ∉ t.storedTo → a ∉ s.storedTo ∧ t.mem.read a = s.mem.read a

theorem KeepsMem.keepsUnstored {s t : State} (h : KeepsMem s t) : KeepsUnstored s t := by
  obtain ⟨hmem, hstored, hplatform⟩ := h
  exact ⟨hplatform, fun a ha => ⟨by rwa [← hstored], by rw [hmem]⟩⟩

theorem KeepsUnstored.refl (s : State) : KeepsUnstored s s := ⟨rfl, fun _ ha => ⟨ha, rfl⟩⟩

theorem KeepsUnstored.trans {s t u : State} (h : KeepsUnstored s t) (h' : KeepsUnstored t u) : KeepsUnstored s u := by
  obtain ⟨hplatform, hread⟩ := h
  obtain ⟨hplatform', hread'⟩ := h'
  refine ⟨hplatform'.trans hplatform, fun a ha => ?_⟩
  obtain ⟨ht, hu⟩ := hread' a ha
  obtain ⟨hs, hst⟩ := hread a ht
  exact ⟨hs, hu.trans hst⟩

/-- A store records every byte it writes. -/
theorem KeepsUnstored.of_onlyStores {bytes : List Nat} {s t : State} (h : OnlyStores bytes s t) :
    KeepsUnstored s t := by
  obtain ⟨hread, hstored, -, -, -, -, -, -, -, hplatform⟩ := h
  refine ⟨hplatform, fun a ha => ?_⟩
  obtain ⟨hbytes, hs⟩ := not_or.1 (mt (hstored a).2 ha)
  exact ⟨hs, hread a hbytes⟩

theorem exec_keepsUnstored {i : Instr} {s t : State} (h : exec i s = .next t) : KeepsUnstored s t := by
  rcases exec_store_or_keepsMem h with ⟨w, rs2, rs1, imm, -, hstore⟩ | ⟨-, hkeeps⟩
  · obtain ⟨-, rfl⟩ := store_next hstore
    exact .of_onlyStores (onlyStores_writeBE w (accessAddr w rs1 imm s) (readReg rs2 s) s)
  · exact hkeeps.keepsUnstored

theorem step_keepsUnstored {s t : State} (h : step s = .next t) : KeepsUnstored s t := by
  rcases step_next h with ⟨u, c, hb, htrap⟩ | ⟨u, hb, hrun⟩
  · exact (boundary_keepsMem hb).keepsUnstored.trans (trapEnter_onlyCsrsAndIp htrap).keepsMem.keepsUnstored
  · obtain ⟨_, _, -, -, -, hexec⟩ := runInstruction_next hrun
    exact (boundary_keepsMem hb).keepsUnstored.trans (exec_keepsUnstored hexec)

theorem Reaches.keepsUnstored {s t : State} (h : Reaches s t) : KeepsUnstored s t := by
  induction h with
  | refl => exact .refl s
  | tail _ hstep ih => exact ih.trans (step_keepsUnstored hstep)

/-! ## The program text -/

theorem Memory.readBE_congr {m m' : Memory} {w : Width} {p : Nat} (h : ∀ a ∈ footprint w p, m.read a = m'.read a) :
    m.readBE w p = m'.readBE w p := by
  cases w <;> simp only [footprint, List.forall_mem_cons] at h <;> simp [Memory.readBE, h]

/-- Settles O49, by induction on the run: the four bytes of a word that is not stale are on no record of stores, and
such bytes read as when the run began. -/
theorem programTextIsFixed : Obligations.ProgramTextIsFixed := by
  intro s t w hrun hfetch hok
  obtain ⟨hplatform, hread⟩ := hrun.keepsUnstored
  obtain ⟨hfresh, hw⟩ := fetch_ok_word hok
  have hunstored : ∀ a ∈ footprint .dword t.pc.toNat, a ∉ t.storedTo := by
    intro a ha hstored
    exact hfresh ⟨hplatform ▸ hfetch, (fetchIsStale_iff t).2 ⟨a, hstored, mem_footprint_dword.1 ha⟩⟩
  rw [hw]
  exact Memory.readBE_congr fun a ha => (hread a (hunstored a ha)).2

end Sys2Proof.Machine
end

section
/-! SUPPORT. A word is its fields in each of the four formats (R91, R92), and the encoder on a word's own fields gives
the word back, its unused fields cleared (R103). -/

namespace Sys2Proof

/-! ## Words as their fields (R91) -/

/-- Two adjacent slices of a word, joined. -/
theorem slice_join {k hi lo n m : Nat} (w : BitVec k) (h : hi = lo + m) :
    w.extractLsb' hi n ++ w.extractLsb' lo m = w.extractLsb' lo (n + m) := by
  apply BitVec.eq_of_getLsbD_eq
  intro i hi'
  simp only [BitVec.getLsbD_append, BitVec.getLsbD_extractLsb']
  by_cases hm : i < m
  · simp [hm, hi']
  · rw [if_neg hm, h, show lo + m + (i - m) = lo + i by omega]
    simp [hi', show i - m < n by omega]

/-- In format DSS nothing but the six fields is in a word. -/
theorem packDSS_fields (w : DWord) : packDSS (fieldOpcode w) (regField (fieldRd w)) (regField (fieldRs1 w)) (fieldFn4 w)
    (regField (fieldRs2 w)) (fieldFn7 w) = w :=
  calc packDSS (fieldOpcode w) (regField (fieldRd w)) (regField (fieldRs1 w)) (fieldFn4 w) (regField (fieldRs2 w))
        (fieldFn7 w)
    _ = w.extractLsb' 26 6 ++ w.extractLsb' 21 5 ++ w.extractLsb' 16 5 ++ w.extractLsb' 12 4 ++ w.extractLsb' 7 5 ++
        w.extractLsb' 0 7 := rfl
    _ = w := by
      rw [slice_join w (by omega), slice_join w (by omega), slice_join w (by omega), slice_join w (by omega),
        slice_join w (by omega), slice_all]

theorem packDSI_fields (w : DWord) : packDSI (fieldOpcode w) (regField (fieldRd w)) (regField (fieldRs1 w)) (fieldFn4 w)
    (fieldImm12 w) = w :=
  calc packDSI (fieldOpcode w) (regField (fieldRd w)) (regField (fieldRs1 w)) (fieldFn4 w) (fieldImm12 w)
    _ = w.extractLsb' 26 6 ++ w.extractLsb' 21 5 ++ w.extractLsb' 16 5 ++ w.extractLsb' 12 4 ++ w.extractLsb' 0 12 :=
      rfl
    _ = w := by
      rw [slice_join w (by omega), slice_join w (by omega), slice_join w (by omega), slice_join w (by omega), slice_all]

theorem packDI_fields (w : DWord) : packDI (fieldOpcode w) (regField (fieldRd w)) (fieldImm21 w) = w :=
  calc packDI (fieldOpcode w) (regField (fieldRd w)) (fieldImm21 w)
    _ = w.extractLsb' 26 6 ++ w.extractLsb' 21 5 ++ w.extractLsb' 0 21 := rfl
    _ = w := by rw [slice_join w (by omega), slice_join w (by omega), slice_all]

/-- In format SSI the two halves of the immediate stand where DSS has rd and fn7 (R96). -/
theorem packSSI_fields (w : DWord) : packSSI (fieldOpcode w) (regField (fieldRs1 w)) (fieldFn4 w)
    (regField (fieldRs2 w)) (fieldImmSSI w) = w := by
  have hhigh : (fieldImmSSI w).extractLsb' 7 5 = regField (fieldRd w) := by
    unfold fieldImmSSI
    rw [slice_high _ _ (by omega), slice_all]
    rfl
  have hlow : (fieldImmSSI w).extractLsb' 0 7 = fieldFn7 w := by
    unfold fieldImmSSI
    rw [slice_low _ _ (by omega), slice_all]
    rfl
  unfold packSSI
  rw [hhigh, hlow]
  exact packDSS_fields w

/-! ## Unused fields cleared (R103) -/

theorem mask_DI_rd (op : BitVec 6) (rd : BitVec 5) (imm : Imm21) :
    packDI op rd imm &&& 0xFC1FFFFF = packDI op 0 imm := by
  apply Laws.and_mask_of_slices
  intro k hk
  simp only [packDI, BitVec.getLsbD_append]
  interval_cases k <;> simp

theorem mask_DSI_rd (op : BitVec 6) (rd rs1 : BitVec 5) (fn4 : BitVec 4) (imm : Imm12) :
    packDSI op rd rs1 fn4 imm &&& 0xFC1FFFFF = packDSI op 0 rs1 fn4 imm := by
  apply Laws.and_mask_of_slices
  intro k hk
  simp only [packDSI, BitVec.getLsbD_append]
  interval_cases k <;> simp

theorem mask_DSI_rs1 (op : BitVec 6) (rd rs1 : BitVec 5) (fn4 : BitVec 4) (imm : Imm12) :
    packDSI op rd rs1 fn4 imm &&& 0xFFE0FFFF = packDSI op rd 0 fn4 imm := by
  apply Laws.and_mask_of_slices
  intro k hk
  simp only [packDSI, BitVec.getLsbD_append]
  interval_cases k <;> simp

/-- CSRS and CSRC use bit 0 of the rd field alone (R98). -/
theorem mask_DSI_pos (op : BitVec 6) (rd rs1 : BitVec 5) (fn4 : BitVec 4) (imm : Imm12) :
    packDSI op rd rs1 fn4 imm &&& 0xFC3FFFFF = packDSI op ((rd.extractLsb' 0 1).setWidth 5) rs1 fn4 imm := by
  apply Laws.and_mask_of_slices
  intro k hk
  simp only [packDSI, BitVec.getLsbD_append]
  interval_cases k <;> simp

theorem mask_DSS_regs (op : BitVec 6) (rd rs1 : BitVec 5) (fn4 : BitVec 4) (rs2 : BitVec 5) (fn7 : BitVec 7) :
    packDSS op rd rs1 fn4 rs2 fn7 &&& 0xFC00F07F = packDSS op 0 0 fn4 0 fn7 := by
  apply Laws.and_mask_of_slices
  intro k hk
  simp only [packDSS, BitVec.getLsbD_append]
  interval_cases k <;> simp

/-! ## The encoder on a word's own fields -/

section
variable {w : DWord} {op : BitVec 6} {fn4 : BitVec 4}

theorem encodeDSS_fields (hop : fieldOpcode w = op) (hfn4 : fieldFn4 w = fn4) (hfn7 : fieldFn7 w = 0) :
    encodeDSS op fn4 (fieldRd w) (fieldRs1 w) (fieldRs2 w) = w := by
  subst hop hfn4
  rw [encodeDSS, ← hfn7, packDSS_fields]

theorem encodeDSI_fields (hop : fieldOpcode w = op) (hfn4 : fieldFn4 w = fn4) :
    encodeDSI op fn4 (fieldRd w) (fieldRs1 w) (fieldImm12 w) = w := by
  subst hop hfn4
  exact packDSI_fields w

theorem encodeSSI_fields (hop : fieldOpcode w = op) (hfn4 : fieldFn4 w = fn4) :
    encodeSSI op fn4 (fieldRs1 w) (fieldRs2 w) (fieldImmSSI w) = w := by
  subst hop hfn4
  exact packSSI_fields w

theorem encodeDI_fields (hop : fieldOpcode w = op) : packDI op (regField (fieldRd w)) (fieldImm21 w) = w := by
  subst hop
  exact packDI_fields w

theorem encodeCsrBit_fields (hop : fieldOpcode w = 0xA) (hfn4 : fieldFn4 w = fn4) :
    encodeCsrBit fn4 (fieldImm12 w) (fieldPos w) = w &&& 0xFC3FFFFF := by
  have hbit : (fieldPos w).extractLsb' 5 1 = (regField (fieldRd w)).extractLsb' 0 1 := by
    conv_lhs => rw [← packDSI_fields w, fieldPos_packDSI, slice_high _ _ (by omega), slice_all]
  have hlow : (fieldPos w).extractLsb' 0 5 = regField (fieldRs1 w) := by
    conv_lhs => rw [← packDSI_fields w, fieldPos_packDSI, slice_low _ _ (by omega), slice_all]
  calc encodeCsrBit fn4 (fieldImm12 w) (fieldPos w)
    _ = packDSI (fieldOpcode w) (regField (fieldRd w)) (regField (fieldRs1 w)) (fieldFn4 w) (fieldImm12 w) &&&
        0xFC3FFFFF := by rw [mask_DSI_pos, ← hbit, ← hlow, hop, hfn4]; rfl
    _ = w &&& 0xFC3FFFFF := by rw [packDSI_fields]

end

end Sys2Proof
end

section
/-! SUPPORT. What a word that decodes says of its instruction (R101, R103): the encoding, the extension and the
registers; the two round trips of the encoder and the decoder. -/

namespace Sys2Proof

open Machine

/-! ## What a decoded word says (R101, R103) -/

/-- The extension of a row of the opcode table, by opcode and fn4. -/
def rowExtension (op fn4 : Nat) : Extension :=
  if (op = 0x3 ∧ fn4 = 0x3) ∨ (op = 0x4 ∧ (fn4 = 0x3 ∨ fn4 = 0x6)) then .srm64
  else if 0x8 ≤ op ∧ op ≤ 0xC then .s
  else if op = 0xD then .m
  else .base

/-- The register is one of those the word's fields name. -/
def NamesRegister (w : DWord) (r : RegNum) : Prop :=
  (RdIsRegister (fieldOpcode w).toNat (fieldFn4 w).toNat ∧ r = fieldRd w) ∨
  (Rs1IsRegister (fieldOpcode w).toNat (fieldFn4 w).toNat ∧ r = fieldRs1 w) ∨
  (Rs2IsRegister (fieldOpcode w).toNat ∧ r = fieldRs2 w)

/-- The instruction holds what the word's fields say: its encoding is the word in the bits it uses, its extension is
that of the word's row, its registers are those the word names. -/
structure ReadsAs (w : DWord) (i : Instr) : Prop where
  encode_eq : encode i = w &&& significantMask i
  extension_eq : i.extension = rowExtension (fieldOpcode w).toNat (fieldFn4 w).toNat
  mem_registers : ∀ r, r ∈ i.registers ↔ NamesRegister w r

section
variable {w : DWord} {i : Instr}

/-- A row that uses all 32 bits. -/
theorem ReadsAs.of_all_used (he : encode i = w) (hm : significantMask i = 0xFFFFFFFF)
    (hx : i.extension = rowExtension (fieldOpcode w).toNat (fieldFn4 w).toNat)
    (hr : ∀ r, r ∈ i.registers ↔ NamesRegister w r) : ReadsAs w i := by
  refine ⟨?_, hx, hr⟩
  rw [hm, he]
  exact (BitVec.and_allOnes).symm

/-- Format DSS names rd, rs1 and rs2. -/
theorem namesRegister_DSS (hop : fieldOpcode w = 0x0 ∨ fieldOpcode w = 0xD) (r : RegNum) :
    r ∈ [fieldRd w, fieldRs1 w, fieldRs2 w] ↔ NamesRegister w r := by
  rcases hop with hop | hop <;> simp [NamesRegister, RdIsRegister, Rs1IsRegister, Rs2IsRegister, hop]

/-- Format DSI names rd and rs1, but in opcode 0xA. -/
theorem namesRegister_DSI
    (hop : fieldOpcode w = 0x1 ∨ fieldOpcode w = 0x4 ∨ fieldOpcode w = 0x6 ∨ fieldOpcode w = 0xB) (r : RegNum) :
    r ∈ [fieldRd w, fieldRs1 w] ↔ NamesRegister w r := by
  rcases hop with hop | hop | hop | hop <;> simp [NamesRegister, RdIsRegister, Rs1IsRegister, Rs2IsRegister, hop]

/-- Format SSI names rs1 and rs2. -/
theorem namesRegister_SSI (hop : fieldOpcode w = 0x3 ∨ fieldOpcode w = 0x7 ∨ fieldOpcode w = 0xC) (r : RegNum) :
    r ∈ [fieldRs1 w, fieldRs2 w] ↔ NamesRegister w r := by
  rcases hop with hop | hop | hop <;> simp [NamesRegister, RdIsRegister, Rs1IsRegister, Rs2IsRegister, hop]

/-- Format DI names rd, but for INT. -/
theorem namesRegister_DI (hop : fieldOpcode w = 0x2 ∨ fieldOpcode w = 0x5) (r : RegNum) :
    r ∈ [fieldRd w] ↔ NamesRegister w r := by
  rcases hop with hop | hop <;> simp [NamesRegister, RdIsRegister, Rs1IsRegister, Rs2IsRegister, hop]

/-! ## One lemma per format -/

/-- Opcodes 0x0 and 0xD. -/
theorem readsAs_DSS
    (h : fieldOpcode w = 0x0 ∧ decodeRegArith w = some i ∨ fieldOpcode w = 0xD ∧ decodeMulDiv w = some i)
    (hfn7 : fieldFn7 w = 0) : ReadsAs w i := by
  unfold decodeRegArith decodeMulDiv at h
  rcases h with ⟨hop, h⟩ | ⟨hop, h⟩
  all_goals split at h <;> cases h
  all_goals
    rename_i hfn4
    exact .of_all_used (encodeDSS_fields hop (BitVec.eq_of_toNat_eq hfn4) hfn7) rfl
      (by simp [Instr.extension, rowExtension, hop]) (namesRegister_DSS (by simp [hop]))

/-- Opcodes 0x1, 0x4, 0x6 and 0xB. -/
theorem readsAs_DSI (h : fieldOpcode w = 0x1 ∧ decodeImmArith w = some i ∨ fieldOpcode w = 0x4 ∧ decodeLoad w = some i ∨
    fieldOpcode w = 0x6 ∧ decodeJalr w = some i ∨ fieldOpcode w = 0xB ∧ decodeIn w = some i) : ReadsAs w i := by
  unfold decodeImmArith decodeLoad decodeJalr decodeIn at h
  rcases h with ⟨hop, h⟩ | ⟨hop, h⟩ | ⟨hop, h⟩ | ⟨hop, h⟩
  all_goals split at h <;> cases h
  all_goals
    rename_i hfn4
    exact .of_all_used (encodeDSI_fields hop (BitVec.eq_of_toNat_eq hfn4)) rfl
      (by simp [Instr.extension, rowExtension, hop, hfn4]) (namesRegister_DSI (by simp [hop]))

/-- Opcodes 0x3, 0x7 and 0xC. -/
theorem readsAs_SSI (h : fieldOpcode w = 0x3 ∧ decodeStore w = some i ∨
    fieldOpcode w = 0x7 ∧ decodeCondJump w = some i ∨ fieldOpcode w = 0xC ∧ decodeOut w = some i) : ReadsAs w i := by
  unfold decodeStore decodeCondJump decodeOut at h
  rcases h with ⟨hop, h⟩ | ⟨hop, h⟩ | ⟨hop, h⟩
  all_goals split at h <;> cases h
  all_goals
    rename_i hfn4
    exact .of_all_used (encodeSSI_fields hop (BitVec.eq_of_toNat_eq hfn4)) rfl
      (by simp [Instr.extension, rowExtension, hop, hfn4]) (namesRegister_SSI (by simp [hop]))

theorem lui_readsAs (hop : fieldOpcode w = 0x2) : ReadsAs w (.lui (fieldRd w) (fieldImm21 w)) :=
  .of_all_used (encodeDI_fields hop) rfl (by simp [Instr.extension, rowExtension, hop])
    (namesRegister_DI (by simp [hop]))

theorem jal_readsAs (hop : fieldOpcode w = 0x5) : ReadsAs w (.jal (fieldRd w) (fieldImm21 w)) :=
  .of_all_used (encodeDI_fields hop) rfl (by simp [Instr.extension, rowExtension, hop])
    (namesRegister_DI (by simp [hop]))

theorem int_readsAs (hop : fieldOpcode w = 0x8) : ReadsAs w (.int (fieldImm21 w)) where
  encode_eq :=
    calc packDI 0x8 0 (fieldImm21 w)
      _ = packDI 0x8 (regField (fieldRd w)) (fieldImm21 w) &&& 0xFC1FFFFF := (mask_DI_rd ..).symm
      _ = w &&& 0xFC1FFFFF := by rw [encodeDI_fields hop]
  extension_eq := by simp [Instr.extension, rowExtension, hop]
  mem_registers := by simp [Instr.registers, NamesRegister, RdIsRegister, Rs1IsRegister, Rs2IsRegister, hop]

/-- SYSRET and MRET use no register field. -/
theorem encodeReturn_fields {fn4 : BitVec 4} (hop : fieldOpcode w = 0x9) (hfn4 : fieldFn4 w = fn4)
    (hfn7 : fieldFn7 w = 0) : packDSS 0x9 0 0 fn4 0 0 = w &&& 0xFC00F07F :=
  calc packDSS 0x9 0 0 fn4 0 0
    _ = encodeDSS 0x9 fn4 (fieldRd w) (fieldRs1 w) (fieldRs2 w) &&& 0xFC00F07F := (mask_DSS_regs ..).symm
    _ = w &&& 0xFC00F07F := by rw [encodeDSS_fields hop hfn4 hfn7]

theorem decodeReturn_readsAs (h : decodeReturn w = some i) (hop : fieldOpcode w = 0x9) : ReadsAs w i := by
  unfold decodeReturn at h
  split at h <;> cases h
  all_goals
    rename_i hfn4 hfn7
    refine ⟨encodeReturn_fields hop (BitVec.eq_of_toNat_eq hfn4) (BitVec.eq_of_toNat_eq hfn7), ?_, ?_⟩
    · simp [Instr.extension, rowExtension, hop]
    · simp [Instr.registers, NamesRegister, RdIsRegister, Rs1IsRegister, Rs2IsRegister, hop, hfn4]

theorem encodeCsrw_fields (hop : fieldOpcode w = 0xA) (hfn4 : fieldFn4 w = 0x0) :
    encode (.csrw (fieldRs1 w) (fieldImm12 w)) = w &&& 0xFC1FFFFF :=
  calc packDSI 0xA 0 (regField (fieldRs1 w)) 0x0 (fieldImm12 w)
    _ = encodeDSI 0xA 0x0 (fieldRd w) (fieldRs1 w) (fieldImm12 w) &&& 0xFC1FFFFF := (mask_DSI_rd ..).symm
    _ = w &&& 0xFC1FFFFF := by rw [encodeDSI_fields hop hfn4]

theorem encodeCsrr_fields (hop : fieldOpcode w = 0xA) (hfn4 : fieldFn4 w = 0x1) :
    encode (.csrr (fieldRd w) (fieldImm12 w)) = w &&& 0xFFE0FFFF :=
  calc packDSI 0xA (regField (fieldRd w)) 0 0x1 (fieldImm12 w)
    _ = encodeDSI 0xA 0x1 (fieldRd w) (fieldRs1 w) (fieldImm12 w) &&& 0xFFE0FFFF := (mask_DSI_rs1 ..).symm
    _ = w &&& 0xFFE0FFFF := by rw [encodeDSI_fields hop hfn4]

theorem decodeCsr_encode_eq (h : decodeCsr w = some i) (hop : fieldOpcode w = 0xA) :
    encode i = w &&& significantMask i := by
  unfold decodeCsr at h
  split at h <;> cases h <;> rename_i hfn4
  · exact encodeCsrw_fields hop (BitVec.eq_of_toNat_eq hfn4)
  · exact encodeCsrr_fields hop (BitVec.eq_of_toNat_eq hfn4)
  · exact encodeCsrBit_fields hop (BitVec.eq_of_toNat_eq hfn4)
  · exact encodeCsrBit_fields hop (BitVec.eq_of_toNat_eq hfn4)

theorem decodeCsr_readsAs (h : decodeCsr w = some i) (hop : fieldOpcode w = 0xA) : ReadsAs w i := by
  have hencode := decodeCsr_encode_eq h hop
  unfold decodeCsr at h
  split at h <;> cases h
  all_goals
    rename_i hfn4
    refine ⟨hencode, ?_, ?_⟩
    · simp [Instr.extension, rowExtension, hop]
    · simp [Instr.registers, NamesRegister, RdIsRegister, Rs1IsRegister, Rs2IsRegister, hop, hfn4]

/-! ## The decoder -/

/-- Every word of the opcode map says what the instruction it selects holds. -/
theorem decodeFields_readsAs (h : decodeFields w = some i) (hfn7 : fn7MustBeZero w = true → fieldFn7 w = 0) :
    ReadsAs w i := by
  unfold decodeFields at h
  split at h <;> rename_i hop
  · have hop := BitVec.eq_of_toNat_eq (y := 0x0) hop
    exact readsAs_DSS (.inl ⟨hop, h⟩) (hfn7 (by simp [fn7MustBeZero, hop]))
  · exact readsAs_DSI (.inl ⟨BitVec.eq_of_toNat_eq hop, h⟩)
  · cases h
    exact lui_readsAs (BitVec.eq_of_toNat_eq hop)
  · exact readsAs_SSI (.inl ⟨BitVec.eq_of_toNat_eq hop, h⟩)
  · exact readsAs_DSI (.inr (.inl ⟨BitVec.eq_of_toNat_eq hop, h⟩))
  · cases h
    exact jal_readsAs (BitVec.eq_of_toNat_eq hop)
  · exact readsAs_DSI (.inr (.inr (.inl ⟨BitVec.eq_of_toNat_eq hop, h⟩)))
  · exact readsAs_SSI (.inr (.inl ⟨BitVec.eq_of_toNat_eq hop, h⟩))
  · cases h
    exact int_readsAs (BitVec.eq_of_toNat_eq hop)
  · exact decodeReturn_readsAs h (BitVec.eq_of_toNat_eq hop)
  · exact decodeCsr_readsAs h (BitVec.eq_of_toNat_eq hop)
  · exact readsAs_DSI (.inr (.inr (.inr ⟨BitVec.eq_of_toNat_eq hop, h⟩)))
  · exact readsAs_SSI (.inr (.inr ⟨BitVec.eq_of_toNat_eq hop, h⟩))
  · have hop := BitVec.eq_of_toNat_eq (y := 0xD) hop
    exact readsAs_DSS (.inr ⟨hop, h⟩) (hfn7 (by simp [fn7MustBeZero, hop]))
  · cases h

end

section
variable {w : DWord} {i : Instr}

/-! ## Words that decode (R102, R105) -/

/-- The word the source prints for the outputs is no row (R279). -/
theorem decodeFields_printedOut (h : isPrintedOut w = true) : decodeFields w = none := by
  obtain ⟨hop, hfn4⟩ : fieldOpcode w = 0xC ∧ fieldFn4 w = 0x4 := by simpa [isPrintedOut] using h
  simp [decodeFields, decodeOut, hop, hfn4]

/-- A word decodes to the instruction its opcode and fn4 select, if fn7 is 0 where it must be. -/
theorem decodeWord_ok_iff :
    decodeWord w = .ok i ↔ decodeFields w = some i ∧ (fn7MustBeZero w = true → fieldFn7 w = 0) := by
  unfold decodeWord
  by_cases hprinted : isPrintedOut w = true
  · simp [hprinted, decodeFields_printedOut hprinted]
  · cases hfields : decodeFields w with
    | none => simp [hprinted]
    | some j =>
      cases hmust : fn7MustBeZero w
      · simp [hprinted]
      · by_cases hfn7 : fieldFn7 w = 0 <;> simp_all

theorem decodeWord_readsAs (h : decodeWord w = .ok i) : ReadsAs w i :=
  have ⟨hfields, hfn7⟩ := decodeWord_ok_iff.1 h
  decodeFields_readsAs hfields hfn7

end

/-! ## The encoder's words decode -/

theorem decodeFields_encode (i : Instr) : decodeFields (encode i) = some i := by
  cases i
  case add | sub | and | or | xor | shr | asr | shl | cch | bch =>
    simp [encode, encodeDSS, decodeFields, decodeRegArith]
  case addi | andi | ori | xori | shri | asri | shli | cchi | bchi =>
    simp [encode, encodeDSI, decodeFields, decodeImmArith]
  case lui | jal | int => simp [encode, decodeFields]
  case stb | stw | std | stq => simp [encode, encodeSSI, decodeFields, decodeStore]
  case ldb | ldw | ldd | ldsb | ldsw | ldq | ldsd => simp [encode, encodeDSI, decodeFields, decodeLoad]
  case jalr => simp [encode, encodeDSI, decodeFields, decodeJalr]
  case jeq | jlt | jslt | jne | jge | jsge => simp [encode, encodeSSI, decodeFields, decodeCondJump]
  case sysret | mret => rfl
  case csrw | csrr => simp [encode, decodeFields, decodeCsr]
  case csrs | csrc => simp [encode, encodeCsrBit, decodeFields, decodeCsr]
  case inb | inw | ind | insb | insw => simp [encode, encodeDSI, decodeFields, decodeIn]
  case outb | outw | outd => simp [encode, encodeSSI, decodeFields, decodeOut]
  case mul | smul | mulh | smulh | div | sdiv | mod | smod =>
    simp [encode, encodeDSS, decodeFields, decodeMulDiv]

/-- The encoder emits fn7 = 0 where it must be 0 (R102). -/
theorem fieldFn7_encode (i : Instr) (h : fn7MustBeZero (encode i) = true) : fieldFn7 (encode i) = 0 := by
  cases i
  case add | sub | and | or | xor | shr | asr | shl | cch | bch => exact fieldFn7_packDSS ..
  case mul | smul | mulh | smulh | div | sdiv | mod | smod => exact fieldFn7_packDSS ..
  all_goals simp [encode, encodeDSI, encodeSSI, encodeCsrBit, fn7MustBeZero] at h

theorem decodeWord_encode (i : Instr) : decodeWord (encode i) = .ok i :=
  decodeWord_ok_iff.2 ⟨decodeFields_encode i, fieldFn7_encode i⟩

/-- Settles O1: the fields of every format read back, and the bytes of a word are joined to it again. -/
theorem decodeOfEncode : Obligations.DecodeOfEncode := by
  intro i rest
  have hword := decodeWord_encode i
  exact ⟨hword, by rw [decode_bytesOfWord, hword]⟩

/-- Settles O2: a word is its fields in the format of its opcode, and what the encoder leaves 0 is what the decoder does
not read. -/
theorem encodeOfDecode : Obligations.EncodeOfDecode := fun _ _ h => (decodeWord_readsAs h).encode_eq

end Sys2Proof
end

section
/-! SUPPORT. The words the decoder finds no row for (R106), and the rows of spec/opcode_table.json (R100, R101). -/

namespace Sys2Proof

open Machine

section
variable {w : DWord}

/-! ## Words with no row (R106) -/

theorem decodeRegArith_none_iff : decodeRegArith w = none ↔ 0xA ≤ (fieldFn4 w).toNat := by
  unfold decodeRegArith
  split <;> grind

theorem decodeImmArith_none_iff : decodeImmArith w = none ↔ (fieldFn4 w).toNat = 0x1 ∨ 0xA ≤ (fieldFn4 w).toNat := by
  unfold decodeImmArith
  split <;> grind

theorem decodeStore_none_iff : decodeStore w = none ↔ 0x4 ≤ (fieldFn4 w).toNat := by
  unfold decodeStore
  split <;> grind

theorem decodeLoad_none_iff : decodeLoad w = none ↔ 0x7 ≤ (fieldFn4 w).toNat := by
  unfold decodeLoad
  split <;> grind

theorem decodeJalr_none_iff : decodeJalr w = none ↔ (fieldFn4 w).toNat ≠ 0x0 := by
  unfold decodeJalr
  split <;> grind

theorem decodeCondJump_none_iff : decodeCondJump w = none ↔ (fieldFn4 w).toNat = 0x3 ∨ 0x7 ≤ (fieldFn4 w).toNat := by
  unfold decodeCondJump
  split <;> grind

theorem decodeReturn_none_iff : decodeReturn w = none ↔
    ¬(((fieldFn4 w).toNat = 0x1 ∨ (fieldFn4 w).toNat = 0x3) ∧ (fieldFn7 w).toNat = 0x0) := by
  unfold decodeReturn
  split <;> grind

theorem decodeCsr_none_iff : decodeCsr w = none ↔ 0x4 ≤ (fieldFn4 w).toNat := by
  unfold decodeCsr
  split <;> grind

theorem decodeIn_none_iff : decodeIn w = none ↔ (fieldFn4 w).toNat = 0x3 ∨ 0x6 ≤ (fieldFn4 w).toNat := by
  unfold decodeIn
  split <;> grind

theorem decodeOut_none_iff : decodeOut w = none ↔ 0x3 ≤ (fieldFn4 w).toNat := by
  unfold decodeOut
  split <;> grind

theorem decodeMulDiv_none_iff : decodeMulDiv w = none ↔ 0x8 ≤ (fieldFn4 w).toNat := by
  unfold decodeMulDiv
  split <;> grind

/-- The words the decoder finds no row for: the unassigned cells that are no SRM64 row, and the word printed for the
outputs. -/
theorem decodeFields_none_iff : decodeFields w = none ↔
    (UnassignedCell (fieldOpcode w).toNat (fieldFn4 w).toNat (fieldFn7 w).toNat ∧
      rowExtension (fieldOpcode w).toNat (fieldFn4 w).toNat ≠ .srm64) ∨
    ((fieldOpcode w).toNat = 0xC ∧ (fieldFn4 w).toNat = 0x4) := by
  have hrow : rowExtension (fieldOpcode w).toNat (fieldFn4 w).toNat ≠ .srm64 ↔
      ¬(((fieldOpcode w).toNat = 0x3 ∧ (fieldFn4 w).toNat = 0x3) ∨
        ((fieldOpcode w).toNat = 0x4 ∧ ((fieldFn4 w).toNat = 0x3 ∨ (fieldFn4 w).toNat = 0x6))) := by
    unfold rowExtension
    grind
  rw [hrow]
  unfold UnassignedCell decodeFields
  split <;> rename_i hop
  · simp only [decodeRegArith_none_iff, hop]; grind
  · simp only [decodeImmArith_none_iff, hop]; grind
  · simp [hop]
  · simp only [decodeStore_none_iff, hop]; grind
  · simp only [decodeLoad_none_iff, hop]; grind
  · simp [hop]
  · simp only [decodeJalr_none_iff, hop]; grind
  · simp only [decodeCondJump_none_iff, hop]; grind
  · simp [hop]
  · simp only [decodeReturn_none_iff, hop]; grind
  · simp only [decodeCsr_none_iff, hop]; grind
  · simp only [decodeIn_none_iff, hop]; grind
  · simp only [decodeOut_none_iff, hop]; grind
  · simp only [decodeMulDiv_none_iff, hop]; grind
  · have hpast : 0xE ≤ (fieldOpcode w).toNat := by grind
    simp [hpast]
    omega

end

/-! ## The opcode table (R100, R101) -/

open Laws Laws.EncodesRow in
/-- The word of every instruction matches its row. -/
theorem encodesRow : ∀ i : Instr, EncodesRow.Statement i
  | .add .. => add .. | .sub .. => sub .. | .and .. => and .. | .or .. => or .. | .xor .. => xor ..
  | .shr .. => shr .. | .asr .. => asr .. | .shl .. => shl .. | .cch .. => cch .. | .bch .. => bch ..
  | .addi .. => addi .. | .andi .. => andi .. | .ori .. => ori .. | .xori .. => xori .. | .shri .. => shri ..
  | .asri .. => asri .. | .shli .. => shli .. | .cchi .. => cchi .. | .bchi .. => bchi .. | .lui .. => lui ..
  | .stb .. => stb .. | .stw .. => stw .. | .std .. => std .. | .stq .. => stq ..
  | .ldb .. => ldb .. | .ldw .. => ldw .. | .ldd .. => ldd .. | .ldsb .. => ldsb .. | .ldsw .. => ldsw ..
  | .ldq .. => ldq .. | .ldsd .. => ldsd .. | .jal .. => jal .. | .jalr .. => jalr ..
  | .jeq .. => jeq .. | .jlt .. => jlt .. | .jslt .. => jslt .. | .jne .. => jne .. | .jge .. => jge ..
  | .jsge .. => jsge .. | .int .. => int .. | .sysret => sysret | .mret => mret
  | .csrw .. => csrw .. | .csrr .. => csrr .. | .csrs .. => csrs .. | .csrc .. => csrc ..
  | .inb .. => inb .. | .inw .. => inw .. | .ind .. => ind .. | .insb .. => insb .. | .insw .. => insw ..
  | .outb .. => outb .. | .outw .. => outw .. | .outd .. => outd ..
  | .mul .. => mul .. | .smul .. => smul .. | .mulh .. => mulh .. | .smulh .. => smulh ..
  | .div .. => div .. | .sdiv .. => sdiv .. | .mod .. => mod .. | .smod .. => smod ..

/-- What a row fixes, an instruction uses. -/
theorem significantMask_and_tableMask (i : Instr) : significantMask i &&& tableMask i = tableMask i := by
  cases i <;> simp only [significantMask, tableMask] <;> decide

/-- The mask of a row by its opcode: fn4 selects in all opcodes but 0x2, 0x5 and 0x8, fn7 in 0x9 alone. -/
def rowMask (op : BitVec 6) : DWord :=
  if op = 0x2 ∨ op = 0x5 ∨ op = 0x8 then 0xFC000000 else if op = 0x9 then 0xFC00F07F else 0xFC00F000

theorem tableMask_eq_rowMask (i : Instr) : tableMask i = rowMask (fieldOpcode (tableMatch i)) := by
  cases i <;> simp only [tableMask, tableMatch] <;> decide

/-- A field that a mask covers whole is the same in words that agree under the mask. -/
theorem slice_eq_of_and_eq {u w m : DWord} {lo len : Nat} (h : u &&& m = w &&& m)
    (hm : m.extractLsb' lo len = BitVec.allOnes len) : u.extractLsb' lo len = w.extractLsb' lo len := by
  have hslice := congrArg (BitVec.extractLsb' lo len) h
  rwa [BitVec.extractLsb'_and, BitVec.extractLsb'_and, hm, BitVec.and_allOnes, BitVec.and_allOnes] at hslice

section
variable {u w : DWord} {i : Instr}

theorem fieldOpcode_of_matches (h : w &&& tableMask i = tableMatch i) : fieldOpcode w = fieldOpcode (tableMatch i) := by
  refine slice_eq_of_and_eq (m := tableMask i) (by rw [← h, BitVec.and_assoc, BitVec.and_self]) ?_
  cases i <;> simp only [tableMask] <;> decide

/-- A word that matches a row has the row's opcode, hence the row's mask. -/
theorem and_rowMask_of_matches (h : w &&& tableMask i = tableMatch i) :
    w &&& rowMask (fieldOpcode w) = tableMatch i := by
  rw [fieldOpcode_of_matches h, ← tableMask_eq_rowMask, h]

/-- Two words with the opcode, fn4 and fn7 of one row: the opcode alone in 0x2, 0x5 and 0x8, fn7 in 0x9 only. -/
structure SameRow (u w : DWord) : Prop where
  opcode_eq : fieldOpcode u = fieldOpcode w
  fn4_eq : ¬(fieldOpcode w = 0x2 ∨ fieldOpcode w = 0x5 ∨ fieldOpcode w = 0x8) → fieldFn4 u = fieldFn4 w
  fn7_eq : fieldOpcode w = 0x9 → fieldFn7 u = fieldFn7 w

theorem sameRow_of_matches (hu : u &&& tableMask i = tableMatch i) (hw : w &&& tableMask i = tableMatch i) :
    SameRow u w := by
  have hop : fieldOpcode u = fieldOpcode w := (fieldOpcode_of_matches hu).trans (fieldOpcode_of_matches hw).symm
  have hmasked : u &&& rowMask (fieldOpcode w) = w &&& rowMask (fieldOpcode w) := by
    rw [and_rowMask_of_matches hw, ← hop, and_rowMask_of_matches hu]
  refine ⟨hop, fun h => slice_eq_of_and_eq hmasked ?_, fun h => slice_eq_of_and_eq hmasked ?_⟩
  · rw [rowMask, if_neg h]
    split <;> decide
  · rw [h]
    decide

/-- The cells without an instruction are given by what selects a row. -/
theorem SameRow.decodeFields_none (h : SameRow u w) (hw : decodeFields w = none) : decodeFields u = none := by
  obtain ⟨hop, hfn4, hfn7⟩ := h
  rw [decodeFields_none_iff] at hw ⊢
  rw [hop]
  by_cases hfree : fieldOpcode w = 0x2 ∨ fieldOpcode w = 0x5 ∨ fieldOpcode w = 0x8
  · rcases hfree with h | h | h <;> simp [UnassignedCell, h] at hw
  · rw [hfn4 hfree]
    by_cases hreturn : fieldOpcode w = 0x9
    · rwa [hfn7 hreturn]
    · have hne : (fieldOpcode w).toNat ≠ 0x9 := fun h => hreturn (BitVec.eq_of_toNat_eq h)
      simpa [UnassignedCell, hne] using hw

theorem matches_of_decodeWord (h : decodeWord w = .ok i) : w &&& tableMask i = tableMatch i :=
  calc w &&& tableMask i
    _ = w &&& significantMask i &&& tableMask i := by rw [BitVec.and_assoc, significantMask_and_tableMask]
    _ = encode i &&& tableMask i := by rw [(decodeWord_readsAs h).encode_eq]
    _ = tableMatch i := encodesRow i

theorem decodeFields_of_matches (h : w &&& tableMask i = tableMatch i) : ∃ j, decodeFields w = some j := by
  rw [← Option.ne_none_iff_exists']
  intro hnone
  have hrow : SameRow (encode i) w := sameRow_of_matches (encodesRow i) h
  exact absurd (hrow.decodeFields_none hnone) (by simp [decodeFields_encode])

end

/-- Settles O3: a word that decodes agrees with its instruction's encoding in the bits the row fixes; a word that
matches a row is in no unassigned cell, and the row's mask and match are given by the word. -/
theorem decoderAgreesWithOpcodeTable : Obligations.DecoderAgreesWithOpcodeTable := by
  refine ⟨fun w i h => matches_of_decodeWord h, fun w i hmatch hfn7 => ?_⟩
  obtain ⟨j, hfields⟩ := decodeFields_of_matches hmatch
  have hword : decodeWord w = .ok j := decodeWord_ok_iff.2 ⟨hfields, hfn7⟩
  exact ⟨j, hword, by
    rw [← and_rowMask_of_matches (matches_of_decodeWord hword), and_rowMask_of_matches hmatch]⟩

end Sys2Proof
end

section
/-! SUPPORT. Which words a variant assigns (R106, R322), and the step on a word that is no instruction (R102, R105,
R106). -/

namespace Sys2Proof

open Machine

/-! ## The variants (R106, R320, R322) -/

theorem Variant.has_rowExtension_iff (v : Variant) (op fn4 : Nat) : v.has (rowExtension op fn4) = true ↔
    ¬((op = 0x3 ∧ fn4 = 0x3) ∨ (op = 0x4 ∧ (fn4 = 0x3 ∨ fn4 = 0x6))) ∧
    (0x8 ≤ op → op ≤ 0xC → v.hasS = true) ∧ (op = 0xD → v.hasM = true) := by
  unfold rowExtension
  split_ifs <;> simp only [Variant.has] <;> grind

theorem Instr.registersExist_iff {w : DWord} {i : Instr} (h : ReadsAs w i) (v : Variant) :
    i.registersExist v = true ↔ (v.hasH = true → ∀ r, NamesRegister w r → r.val < 16) := by
  rw [Instr.registersExist, List.all_eq_true]
  simp only [h.mem_registers, Variant.nregs]
  by_cases hh : v.hasH = true <;> simp [hh]

theorem forall_namesRegister_iff {w : DWord} {p : RegNum → Prop} : (∀ r, NamesRegister w r → p r) ↔
    (RdIsRegister (fieldOpcode w).toNat (fieldFn4 w).toNat → p (fieldRd w)) ∧
    (Rs1IsRegister (fieldOpcode w).toNat (fieldFn4 w).toNat → p (fieldRs1 w)) ∧
    (Rs2IsRegister (fieldOpcode w).toNat → p (fieldRs2 w)) := by
  simp only [NamesRegister, or_imp, forall_and, and_imp, forall_comm (α := RegNum)]
  simp

theorem assigned_iff {w : DWord} {i : Instr} (h : decodeWord w = .ok i) (v : Variant) :
    i.assigned v = true ↔ AssignedOn v w := by
  have hreads := decodeWord_readsAs h
  rw [Instr.assigned, Bool.and_eq_true, hreads.extension_eq, Variant.has_rowExtension_iff,
    Instr.registersExist_iff hreads, forall_namesRegister_iff, AssignedOn, and_assoc, and_assoc]

/-! ## Words the decoder rejects (R102, R105, R106) -/

section
variable {w : DWord} {i : Instr}

theorem not_isPrintedOut_of_unassignedCell
    (h : UnassignedCell (fieldOpcode w).toNat (fieldFn4 w).toNat (fieldFn7 w).toNat) : isPrintedOut w = false := by
  rw [Bool.eq_false_iff]
  intro hprinted
  obtain ⟨hop, hfn4⟩ : fieldOpcode w = 0xC ∧ fieldFn4 w = 0x4 := by simpa [isPrintedOut] using hprinted
  simp [UnassignedCell, hop, hfn4] at h

/-- An unassigned cell holds no instruction, or one of SRM64 (R300). -/
theorem decodeWord_of_unassignedCell
    (h : UnassignedCell (fieldOpcode w).toNat (fieldFn4 w).toNat (fieldFn7 w).toNat) :
    decodeWord w = .error .unassigned ∨ ∃ i, decodeWord w = .ok i ∧ i.extension = .srm64 := by
  cases hfields : decodeFields w with
  | none => exact .inl (by simp [decodeWord, not_isPrintedOut_of_unassignedCell h, hfields])
  | some i =>
    have hx : rowExtension (fieldOpcode w).toNat (fieldFn4 w).toNat = .srm64 := by
      by_contra hne
      simp [decodeFields_none_iff.2 (.inl ⟨h, hne⟩)] at hfields
    have hword : decodeWord w = .ok i := by
      refine decodeWord_ok_iff.2 ⟨hfields, fun hmust => ?_⟩
      have hop : fieldOpcode w = 0x0 ∨ fieldOpcode w = 0xD := by simpa [fn7MustBeZero] using hmust
      rcases hop with hop | hop <;> simp [rowExtension, hop] at hx
    exact .inr ⟨i, hword, (decodeWord_readsAs hword).extension_eq.trans hx⟩

/-- The word of an assigned cell of opcode 0x0 or 0xD with fn7 not 0. -/
theorem decodeWord_reservedFn7 (hop : fieldOpcode w = 0x0 ∧ (fieldFn4 w).toNat ≤ 0x9 ∨
    fieldOpcode w = 0xD ∧ (fieldFn4 w).toNat ≤ 0x7) (hfn7 : fieldFn7 w ≠ 0) : decodeWord w = .error .reservedFn7 := by
  have hfields : decodeFields w ≠ none := by
    rw [Ne, decodeFields_none_iff]
    rcases hop with ⟨hop, hfn4⟩ | ⟨hop, hfn4⟩ <;> simp [UnassignedCell, hop] <;> omega
  obtain ⟨i, hi⟩ := Option.ne_none_iff_exists'.1 hfields
  rcases hop with ⟨hop, -⟩ | ⟨hop, -⟩ <;> simp_all [decodeWord, isPrintedOut, fn7MustBeZero]

theorem decodeWord_printedOut (hop : fieldOpcode w = 0xC) (hfn4 : fieldFn4 w = 0x4) :
    decodeWord w = .error .printedOutFn4 := by
  simp [decodeWord, isPrintedOut, hop, hfn4]

end

end Sys2Proof

namespace Sys2Proof.Machine

/-! ## A step on a word that is no instruction -/

section
variable {s : State} {w : DWord}

theorem runInstruction_of_error {e : DecodeError} (hf : fetch s = .ok w) (hd : decodeWord w = .error e) :
    runInstruction s = rejected s.platform.variant w e := by
  have hdec : decode (bytesOfWord w) = .error e := by
    simpa [hd] using decode_bytesOfWord w []
  simp only [runInstruction, hf, hdec]

theorem runInstruction_of_not_assigned {i : Instr} (hf : fetch s = .ok w) (hd : decodeWord w = .ok i)
    (hi : i.assigned s.platform.variant = false) : runInstruction s = .fault .illegalInstruction := by
  have hdec : decode (bytesOfWord w) = .ok (i, []) := by
    simpa [hd] using decode_bytesOfWord w []
  simp [runInstruction, hf, hdec, hi]

theorem runInstruction_of_unassignedCell (hf : fetch s = .ok w)
    (h : UnassignedCell (fieldOpcode w).toNat (fieldFn4 w).toNat (fieldFn7 w).toNat) :
    runInstruction s = .fault .illegalInstruction := by
  rcases decodeWord_of_unassignedCell h with hd | ⟨i, hd, hx⟩
  · rw [runInstruction_of_error hf hd]
    rfl
  · exact runInstruction_of_not_assigned hf hd (by simp [Instr.assigned, hx, Variant.has])

end

/-- Settles O4: which fields name registers is read off the word, and a quiet boundary leaves the step to the decoder's
answer. -/
theorem wordsThatAreNoInstruction : Obligations.WordsThatAreNoInstruction := by
  refine ⟨fun v w i h => assigned_iff h v, fun s t w hquiet hf => ?_⟩
  rw [hquiet.step_eq]
  refine ⟨runInstruction_of_unassignedCell hf, fun i => runInstruction_of_not_assigned hf, ?_, ?_, ?_⟩
  · intro hop hfn4 hfn7
    rw [runInstruction_of_error hf (decodeWord_reservedFn7 (.inl ⟨hop, hfn4⟩) hfn7)]
    simp [rejected, opcodeOnVariant, hop]
  · intro hop hfn4 hfn7
    rw [runInstruction_of_error hf (decodeWord_reservedFn7 (.inr ⟨hop, hfn4⟩) hfn7)]
    simp [rejected, opcodeOnVariant, hop]
  · intro hop hfn4
    rw [runInstruction_of_error hf (decodeWord_printedOut hop hfn4)]
    simp [rejected, opcodeOnVariant, hop]

end Sys2Proof.Machine
end

section
/-! SUPPORT. The register and immediate arithmetic families (R120, R140) complete with the value their operation gives,
the bits and the numbers those values are, and the statements about ADD to BCH, ANDI and LDB (spec/40). -/

namespace Sys2Proof.Machine

/-! ## The shapes of the two families -/

section
variable {i : Instr} (f : DWord → DWord → DWord) {rd rs1 rs2 : RegNum} {imm : Imm12} {v : DWord} {s : State}

/-- R120: an instruction of the register family completes with its operation's value. -/
theorem completesWith_of_aluReg (h : exec i s = aluReg f rd rs1 rs2 s) (hv : f (readReg rs1 s) (readReg rs2 s) = v) :
    CompletesWith i rd v s := by
  subst hv
  exact completesWith_of h

/-- R140: an instruction of the immediate family completes with its operation's value. -/
theorem completesWith_of_aluImm (h : exec i s = aluImm f rd rs1 imm s) (hv : f (readReg rs1 s) (sext12 imm) = v) :
    CompletesWith i rd v s := by
  subst hv
  exact completesWith_of h

end

/-! ## Values as numbers and as bits -/

theorem sub_eq_ofInt_toNat_sub (a b : DWord) : a - b = BitVec.ofInt 32 (a.toNat - b.toNat : Int) := by
  rw [Int.sub_eq_add_neg, BitVec.ofInt_add, BitVec.ofInt_neg, BitVec.sub_eq_add_neg]
  simp

/-- R95: from bit 11 on, the sign-extended immediate repeats bit 11. -/
theorem getLsbD_sext12 (imm : Imm12) {k : Nat} (hk : k < 32) : (sext12 imm).getLsbD k = imm.getLsbD (min k 11) := by
  rw [sext12, BitVec.getLsbD_signExtend, decide_eq_true hk, Bool.true_and]
  split
  · rw [Nat.min_eq_left (by omega)]
  · rw [Nat.min_eq_right (by omega), BitVec.msb_eq_getLsbD_last]

theorem getLsbD_and_sext12 (a : DWord) (imm : Imm12) (k : Nat) :
    (a &&& sext12 imm).getLsbD k = (a.getLsbD k && imm.getLsbD (min k 11)) := by
  rw [BitVec.getLsbD_and]
  by_cases hk : k < 32
  · rw [getLsbD_sext12 imm hk]
  · rw [BitVec.getLsbD_of_ge a k (by omega), Bool.false_and, Bool.false_and]

theorem extend_zero_byte_readBE (m : Memory) (a : Nat) :
    extend .zero .byte (m.readBE .byte a) = BitVec.ofNat 32 (m.read a).toNat := by
  rw [Memory.readBE, extend, BitVec.extractLsb'_setWidth_of_le (by decide), BitVec.extractLsb'_eq_self,
    BitVec.ofNat_toNat]

/-! ## Shifts (R126 to R128, R131) -/

theorem shiftInRange_shr (a : DWord) (n : Nat) : shiftInRange .shr a n = BitVec.ofNat 32 (a.toNat / 2 ^ n) := by
  rw [shiftInRange, ← Nat.shiftRight_eq_div_pow, ← BitVec.toNat_ushiftRight, BitVec.ofNat_toNat, BitVec.setWidth_eq]

theorem shiftInRange_asr (a : DWord) (n : Nat) : shiftInRange .asr a n = BitVec.ofInt 32 (a.toInt / 2 ^ n) := by
  rw [shiftInRange, BitVec.sshiftRight, Int.shiftRight_eq_div_pow]
  norm_cast

theorem shiftInRange_shl (a : DWord) (n : Nat) : shiftInRange .shl a n = BitVec.ofNat 32 (a.toNat * 2 ^ n) := by
  rw [← Nat.shiftLeft_eq]
  exact BitVec.shiftLeft_eq ..

/-! ## Carry and borrow (R129, R130) -/

/-- The sum of two dwords has 33 bits, so its quotient by 2^32 is its bit 32. -/
theorem ofBool_carryOut (a b : DWord) :
    ofBool (carryOut a b) = BitVec.ofNat 32 ((a.toNat + b.toNat) / 2 ^ 32) := by
  have ha := a.isLt
  have hb := b.isLt
  by_cases h : 2 ^ 32 ≤ a.toNat + b.toNat
  · rw [carryOut, decide_eq_true h, show (a.toNat + b.toNat) / 2 ^ 32 = 1 by omega]
    rfl
  · rw [carryOut, decide_eq_false h, Nat.div_eq_of_lt (by omega)]
    rfl

theorem ofBool_borrowOut (a b : DWord) : ofBool (borrowOut a b) = if a.toNat < b.toNat then 1 else 0 := by
  simp only [ofBool, borrowOut, decide_eq_true_eq]

/-! ## The statements -/

/-- Settles O12: the register family with the sum and the difference as its operation. -/
theorem addAndSub : Obligations.AddAndSub := fun _ _ _ _ =>
  ⟨completesWith_of_aluReg (· + ·) rfl (BitVec.add_def ..),
    completesWith_of_aluReg (· - ·) rfl (sub_eq_ofInt_toNat_sub ..),
    decodeWord_encode (.add ..), decodeWord_encode (.sub ..)⟩

/-- Settles O13: the register family with the bitwise operations. -/
theorem andAndOr : Obligations.AndAndOr := fun _ _ _ _ =>
  ⟨⟨_, completesWith_of_aluReg (· &&& ·) rfl rfl, fun _ => BitVec.getLsbD_and⟩,
    ⟨_, completesWith_of_aluReg (· ||| ·) rfl rfl, fun _ => BitVec.getLsbD_or⟩,
    decodeWord_encode (.and ..), decodeWord_encode (.or ..)⟩

/-- Settles O14: XOR and ANDI are of the two families; where there is memory the load completes with the byte, whose
address no alignment changes. -/
theorem xorAndiAndLdb : Obligations.XorAndiAndLdb := by
  intro rd rs1 rs2 imm s
  refine ⟨⟨_, completesWith_of_aluReg (· ^^^ ·) rfl rfl, fun _ => BitVec.getLsbD_xor⟩,
    ⟨_, completesWith_of_aluImm (· &&& ·) rfl rfl, getLsbD_and_sext12 _ imm⟩, fun hmapped => ?_,
    decodeWord_encode (.xor ..), decodeWord_encode (.andi ..), decodeWord_encode (.ldb ..)⟩
  have hload := load_of_mapped .zero rd hmapped
  rw [extend_zero_byte_readBE, accessAddr_byte] at hload
  exact completesWith_of hload

/-- Settles O15: in range each shift is the arithmetic of its amount, and out of range both sides are the free value. -/
theorem registerShifts : Obligations.RegisterShifts := by
  intro rd rs1 rs2 s
  refine ⟨completesWith_of_aluReg (shiftValue .shr) rfl ?_, completesWith_of_aluReg (shiftValue .asr) rfl ?_,
    completesWith_of_aluReg (shiftValue .shl) rfl ?_,
    decodeWord_encode (.shr ..), decodeWord_encode (.asr ..), decodeWord_encode (.shl ..)⟩
  · rw [shiftValue, shiftInRange_shr]
  · rw [shiftValue, shiftInRange_asr]
  · rw [shiftValue, shiftInRange_shl]

/-- Settles O16: the register family with the carry and the borrow as its operation. -/
theorem carryAndBorrowChecks : Obligations.CarryAndBorrowChecks := fun _ _ _ _ =>
  ⟨completesWith_of_aluReg (fun a b => ofBool (carryOut a b)) rfl (ofBool_carryOut ..),
    completesWith_of_aluReg (fun a b => ofBool (borrowOut a b)) rfl (ofBool_borrowOut ..),
    decodeWord_encode (.cch ..), decodeWord_encode (.bch ..)⟩

end Sys2Proof.Machine
end

section
/-! SUPPORT. The sign-extended immediate as a shift amount (R145) and LUI's operand as a number (R152), and the
statements about ADDI to BCHI and LUI (spec/41). -/

namespace Sys2Proof.Machine

/-! ## The immediate as a shift amount (R145) -/

/-- R95: an immediate without its sign bit is itself as a dword; one with it lies in the top 2^11 dwords. -/
theorem sext12_toNat (imm : Imm12) :
    (sext12 imm).toNat = if 2 ^ 11 ≤ imm.toNat then imm.toNat + (2 ^ 32 - 2 ^ 12) else imm.toNat := by
  have hlt := imm.isLt
  rw [sext12, BitVec.toNat_signExtend, BitVec.toNat_setWidth, Nat.mod_eq_of_lt (by omega), BitVec.msb_eq_decide]
  simp only [decide_eq_true_eq]
  split <;> rfl

/-- The sign-extended immediate is in 0..31 exactly when the field is, and then it is the field. -/
theorem shiftValue_sext12 (op : ShiftOp) (a : DWord) (imm : Imm12) :
    shiftValue op a (sext12 imm) =
      if imm.toNat ≤ 31 then shiftInRange op a imm.toNat
      else Config.shiftAmountMode op a (BitVec.ofInt 32 imm.toInt) := by
  by_cases h : imm.toNat ≤ 31
  · have hsame : (sext12 imm).toNat = imm.toNat := by
      rw [sext12_toNat, if_neg (by omega)]
    rw [shiftValue, hsame, if_pos h, if_pos h]
  · have hout : ¬ (sext12 imm).toNat ≤ 31 := by
      rw [sext12_toNat]
      split <;> omega
    rw [shiftValue, if_neg hout, if_neg h]
    rfl

/-! ## LUI's operand (R152) -/

theorem upperImm_eq_ofNat (imm : Imm21) : upperImm imm = BitVec.ofNat 32 (imm.toNat * 2 ^ 11) := by
  have hlt := imm.isLt
  apply BitVec.eq_of_toNat_eq
  rw [upperImm, BitVec.toNat_append, BitVec.toNat_ofNat, Nat.mod_eq_of_lt (by omega), Nat.shiftLeft_eq]
  exact Nat.or_zero _

/-! ## The statements -/

/-- Settles O17: the immediate family with the sum, the or and the exclusive or as its operation. -/
theorem addiOriXori : Obligations.AddiOriXori := by
  intro rd rs1 imm s
  refine ⟨completesWith_of_aluImm (· + ·) rfl (add_sext12 ..),
    ⟨_, completesWith_of_aluImm (· ||| ·) rfl rfl, fun k hk => ?_⟩,
    ⟨_, completesWith_of_aluImm (· ^^^ ·) rfl rfl, fun k hk => ?_⟩,
    decodeWord_encode (.addi ..), decodeWord_encode (.ori ..), decodeWord_encode (.xori ..)⟩
  · rw [BitVec.getLsbD_or, getLsbD_sext12 imm hk]
  · rw [BitVec.getLsbD_xor, getLsbD_sext12 imm hk]

/-- Settles O18: in range each shift is the arithmetic of the field, and out of range both sides are the free value of
the extended immediate. -/
theorem immediateShifts : Obligations.ImmediateShifts := by
  intro rd rs1 imm s
  refine ⟨completesWith_of_aluImm (shiftValue .shr) rfl ?_, completesWith_of_aluImm (shiftValue .asr) rfl ?_,
    completesWith_of_aluImm (shiftValue .shl) rfl ?_,
    decodeWord_encode (.shri ..), decodeWord_encode (.asri ..), decodeWord_encode (.shli ..)⟩
  · rw [shiftValue_sext12, shiftInRange_shr]
  · rw [shiftValue_sext12, shiftInRange_asr]
  · rw [shiftValue_sext12, shiftInRange_shl]

/-- Settles O19: the immediate family with the carry and the borrow as its operation. -/
theorem immediateCarryAndBorrow : Obligations.ImmediateCarryAndBorrow := fun _ _ _ _ =>
  ⟨completesWith_of_aluImm (fun a i => ofBool (carryOut a i)) rfl (ofBool_carryOut ..),
    completesWith_of_aluImm (fun a i => ofBool (borrowOut a i)) rfl (ofBool_borrowOut ..),
    decodeWord_encode (.cchi ..), decodeWord_encode (.bchi ..)⟩

/-- Settles O20: LUI writes its operand and advances, reading no register. -/
theorem loadUpperImmediate : Obligations.LoadUpperImmediate := fun rd imm s =>
  have hexec : exec (.lui rd imm) s = .next (advance (writeReg rd (upperImm imm) s)) := rfl
  ⟨completesWith_of (upperImm_eq_ofNat imm ▸ hexec), decodeWord_encode (.lui ..)⟩

end Sys2Proof.Machine
end

section
/-! SUPPORT. What the loads read as numbers (R60, R67), the shapes of the store and load families (R160, R165), a dword
read back in parts after STD (R172), and the statements about spec/42. -/

namespace Sys2Proof.Machine

/-! ## What a load gives, as a number of the bytes read (R60, R67) -/

/-- Two adjacent parts of a value: the part at the left counts by the width of the other. -/
theorem append_toNat {n m : Nat} (x : BitVec n) (y : BitVec m) : (x ++ y).toNat = x.toNat * 2 ^ m + y.toNat := by
  rw [BitVec.toNat_append, ← Nat.shiftLeft_add_eq_or_of_lt y.isLt, Nat.shiftLeft_eq]

section
variable (m : Memory) (a : Nat)

theorem extend_sign_byte_readBE : extend .sign .byte (m.readBE .byte a) = BitVec.ofInt 32 (m.read a).toInt := by
  rw [Memory.readBE, extend, BitVec.extractLsb'_setWidth_of_le (by decide), BitVec.extractLsb'_eq_self]
  rfl

theorem extend_zero_word_readBE : extend .zero .word (m.readBE .word a) =
    BitVec.ofNat 32 ((m.read a).toNat * 2 ^ 8 + (m.read (a + 1)).toNat) := by
  rw [Memory.readBE, extend, BitVec.extractLsb'_setWidth_of_le (by decide), BitVec.extractLsb'_eq_self, ← append_toNat,
    BitVec.ofNat_toNat]

theorem extend_sign_word_readBE : extend .sign .word (m.readBE .word a) =
    BitVec.ofInt 32 ((m.read a).toInt * 2 ^ 8 + (m.read (a + 1)).toNat) := by
  have hsigned : (m.read a ++ m.read (a + 1)).toInt = (m.read a).toInt * 2 ^ 8 + (m.read (a + 1)).toNat := by
    rw [BitVec.toInt_append, if_neg (by decide), Int.mul_comm]
  rw [Memory.readBE, extend, BitVec.extractLsb'_setWidth_of_le (by decide), BitVec.extractLsb'_eq_self, ← hsigned]
  rfl

theorem readBE_dword_eq_ofNat : m.readBE .dword a =
    BitVec.ofNat 32 ((m.read a).toNat * 2 ^ 24 + (m.read (a + 1)).toNat * 2 ^ 16 + (m.read (a + 2)).toNat * 2 ^ 8 +
      (m.read (a + 3)).toNat) := by
  have hvalue : (m.readBE .dword a).toNat = (m.read a).toNat * 2 ^ 24 + (m.read (a + 1)).toNat * 2 ^ 16 +
      (m.read (a + 2)).toNat * 2 ^ 8 + (m.read (a + 3)).toNat := by
    rw [Memory.readBE, append_toNat, append_toNat, append_toNat]
    omega
  rw [← hvalue, BitVec.ofNat_toNat, BitVec.setWidth_eq]

end

/-! ## The shapes of the two families -/

/-- R165: where there is memory, an instruction of the load family completes with the extended value read. -/
theorem completesWith_of_load {i : Instr} {w : Width} {x : Ext} {rd rs1 : RegNum} {imm : Imm12} {v : DWord} {s : State}
    (hexec : exec i s = load w x rd rs1 imm s) (hm : mapped w (accessAddr w rs1 imm s) s = true)
    (hv : extend x w (s.mem.readBE w (accessAddr w rs1 imm s).toNat) = v) : CompletesWith i rd v s := by
  subst hv
  exact completesWith_of (hexec.trans (load_of_mapped x rd hm))

/-- R160: where there is RAM, an instruction of the store family completes, and writes its footprint alone. -/
theorem next_of_store {i : Instr} {w : Width} {rs2 rs1 : RegNum} {imm : Imm12} {s : State}
    (hexec : exec i s = store w rs2 rs1 imm s) (hw : writable w (accessAddr w rs1 imm s) s = true) :
    ∃ t, exec i s = .next t ∧ OnlyStores (footprint w (accessAddr w rs1 imm s).toNat) s t ∧
      t.mem = s.mem.writeBE w (accessAddr w rs1 imm s).toNat (readReg rs2 s) :=
  ⟨_, hexec.trans (store_of_writable rs2 hw), onlyStores_writeBE .., rfl⟩

/-- An aligned access ends inside the address space (R64). -/
theorem accessAddr_word_add_one_lt (rs1 : RegNum) (imm : Imm12) (s : State) :
    (accessAddr .word rs1 imm s).toNat + 1 < 2 ^ 32 :=
  footprint_accessAddr_lt .word rs1 imm s _ (List.mem_cons_of_mem _ (List.mem_singleton_self _))

theorem accessAddr_dword_add_three_lt (rs1 : RegNum) (imm : Imm12) (s : State) :
    (accessAddr .dword rs1 imm s).toNat + 3 < 2 ^ 32 :=
  footprint_accessAddr_lt .dword rs1 imm s _ (mem_footprint_dword.2 ⟨Nat.le_add_right _ 3, by omega⟩)

/-- A byte with no RAM behind it is in the footprint of no store that can be made (R68). -/
theorem not_mem_footprint_of_not_ramAt {w : Width} {p : DWord} {a : Nat} {s : State} (hw : writable w p s = true)
    (ha : ramAt a s = false) : a ∉ footprint w p.toNat := by
  intro hmem
  simp only [writable, List.all_eq_true] at hw
  simp [hw a hmem] at ha

/-- Memory behind every byte of an access is behind every byte of a narrower access inside it. -/
theorem mapped_of_footprint_subset {w w' : Width} {p p' : DWord} {s : State} (h : mapped w p s = true)
    (hsub : footprint w' p'.toNat ⊆ footprint w p.toNat) : mapped w' p' s = true := by
  simp only [mapped, List.all_eq_true] at h ⊢
  exact fun a ha => h a (hsub ha)

/-! ## A dword in memory, read in parts (R172) -/

/-- The four bytes from an address are those of the dword, the most significant first (R60), with memory behind them. -/
structure HoldsDword (s : State) (p v : DWord) : Prop where
  mapped : mapped .dword p s = true
  read_eq : ∀ k ≤ 3, s.mem.read (p.toNat + k) = v.extractLsb' (8 * (3 - k)) 8

/-- Where STD completes, its address holds the dword it stored, and the registers are as they were. -/
theorem holdsDword_of_std {rs2 rs1 : RegNum} {imm : Imm12} {s t : State} (hwf : s.mem.wf = true)
    (h : exec (.std rs2 rs1 imm) s = .next t) :
    t.regs = s.regs ∧ HoldsDword t (accessAddr .dword rs1 imm s) (readReg rs2 s) := by
  obtain ⟨hw, rfl⟩ := store_next h
  obtain ⟨h0, h1, h2, h3⟩ :=
    Memory.read_writeBE_dword _ (readReg rs2 s) hwf (accessAddr_dword_add_three_lt rs1 imm s)
  refine ⟨rfl, mapped_of_writable hw, fun k hk => ?_⟩
  interval_cases k
  · exact h0
  · exact h1
  · exact h2
  · exact h3

/-- Equal register files give equal addresses. -/
theorem baseSum_congr {s t : State} (h : t.regs = s.regs) (rs1 : RegNum) (imm : Imm12) :
    baseSum rs1 imm t = baseSum rs1 imm s := by
  rw [baseSum, baseSum, readReg_congr h]

theorem accessAddr_congr {s t : State} (h : t.regs = s.regs) (w : Width) (rs1 : RegNum) (imm : Imm12) :
    accessAddr w rs1 imm t = accessAddr w rs1 imm s := by
  rw [accessAddr, accessAddr, effAddr, effAddr, readReg_congr h]

section
variable {s : State} {p v : DWord} {rs1 : RegNum} {imm : Imm12} {k : Nat} (h : HoldsDword s p v) (rd : RegNum)
include h

/-- Memory is behind every access inside the dword. -/
theorem HoldsDword.mapped_within {w : Width} {q : DWord}
    (hin : ∀ a ∈ footprint w q.toNat, p.toNat ≤ a ∧ a < p.toNat + 4) : Machine.mapped w q s = true :=
  mapped_of_footprint_subset h.mapped fun a ha => mem_footprint_dword.2 (hin a ha)

theorem HoldsDword.byte_toNat (hk : k ≤ 3) :
    (s.mem.read (p.toNat + k)).toNat = v.toNat / 2 ^ (8 * (3 - k)) % 2 ^ 8 := by
  rw [h.read_eq k hk, slice_toNat]

/-- The two bytes at an offset are a part of 16 bits of the dword. -/
theorem HoldsDword.word_toNat (hk : k ≤ 2) :
    (s.mem.read (p.toNat + k)).toNat * 2 ^ 8 + (s.mem.read (p.toNat + k + 1)).toNat =
      v.toNat / 2 ^ (8 * (2 - k)) % 2 ^ 16 := by
  rw [Nat.add_assoc, h.byte_toNat (by omega), h.byte_toNat (k := k + 1) (by omega)]
  interval_cases k <;> simp only [Nat.reduceAdd, Nat.reduceSub, Nat.reduceMul, Nat.reducePow] <;> omega

theorem HoldsDword.ldd (haddr : accessAddr .dword rs1 imm s = p) : CompletesWith (.ldd rd rs1 imm) rd v s := by
  subst haddr
  have hread : s.mem.readBE .dword (accessAddr .dword rs1 imm s).toNat = v :=
    calc s.mem.readBE .dword (accessAddr .dword rs1 imm s).toNat
      _ = wordOfBytes (v.extractLsb' 24 8) (v.extractLsb' 16 8) (v.extractLsb' 8 8) (v.extractLsb' 0 8) := by
        rw [Memory.readBE, h.read_eq 1 (by omega), h.read_eq 2 (by omega), h.read_eq 3 (by omega),
          ← Nat.add_zero (accessAddr ..).toNat, h.read_eq 0 (by omega)]
        rfl
      _ = v := wordOfBytes_bytes v
  exact completesWith_of_load rfl h.mapped hread

theorem HoldsDword.ldw (haddr : (accessAddr .word rs1 imm s).toNat = p.toNat + k) (hk : k ≤ 2) :
    CompletesWith (.ldw rd rs1 imm) rd (BitVec.ofNat 32 (v.toNat / 2 ^ (8 * (2 - k)) % 2 ^ 16)) s := by
  have hin : ∀ a ∈ footprint .word (accessAddr .word rs1 imm s).toNat, p.toNat ≤ a ∧ a < p.toNat + 4 := by
    simp only [footprint, haddr, List.mem_cons, List.not_mem_nil, or_false, forall_eq_or_imp, forall_eq]
    omega
  refine completesWith_of_load rfl (h.mapped_within hin) ?_
  rw [extend_zero_word_readBE, haddr, h.word_toNat hk]

theorem HoldsDword.ldb (hbase : baseSum rs1 imm s = p.toNat + k) (hk : k ≤ 3) :
    CompletesWith (.ldb rd rs1 imm) rd (BitVec.ofNat 32 (v.toNat / 2 ^ (8 * (3 - k)) % 2 ^ 8)) s := by
  have haddr : (accessAddr .byte rs1 imm s).toNat = p.toNat + k := (accessAddr_byte ..).trans hbase
  have hin : ∀ a ∈ footprint .byte (accessAddr .byte rs1 imm s).toNat, p.toNat ≤ a ∧ a < p.toNat + 4 := by
    simp only [footprint, haddr, List.mem_cons, List.not_mem_nil, or_false, forall_eq]
    omega
  refine completesWith_of_load rfl (h.mapped_within hin) ?_
  rw [extend_zero_byte_readBE, haddr, h.byte_toNat hk]

end

/-! ## The statements -/

/-- Settles O21: each is of the store family, and an aligned access stays below 2^32. -/
theorem stores : Obligations.Stores := by
  intro rs2 rs1 imm s hwf
  refine ⟨⟨accessAddr_byte .., fun hw => ?_⟩, ⟨accessAddr_word .., fun hw => ?_⟩, ⟨accessAddr_dword .., fun hw => ?_⟩,
    decodeWord_encode (.stb ..), decodeWord_encode (.stw ..), decodeWord_encode (.std ..)⟩
  · obtain ⟨t, hnext, honly, hmem⟩ := next_of_store (i := .stb rs2 rs1 imm) rfl hw
    exact ⟨t, hnext, honly, hmem ▸ Memory.read_writeBE_byte _ _ hwf⟩
  · obtain ⟨t, hnext, honly, hmem⟩ := next_of_store (i := .stw rs2 rs1 imm) rfl hw
    exact ⟨t, hnext, honly, hmem ▸ Memory.read_writeBE_word _ _ hwf (accessAddr_word_add_one_lt ..)⟩
  · obtain ⟨t, hnext, honly, hmem⟩ := next_of_store (i := .std rs2 rs1 imm) rfl hw
    exact ⟨t, hnext, honly, hmem ▸ Memory.read_writeBE_dword _ _ hwf (accessAddr_dword_add_three_lt ..)⟩

/-- Settles O22: each is of the load family, and what it reads is a number of the bytes at the aligned address. -/
theorem loads : Obligations.Loads := by
  intro rd rs1 imm s
  refine ⟨fun hm => completesWith_of_load rfl hm ?_,
    fun hm => ⟨completesWith_of_load rfl hm ?_, completesWith_of_load rfl hm ?_⟩,
    fun hm => completesWith_of_load rfl hm ?_,
    decodeWord_encode (.ldsb ..), decodeWord_encode (.ldw ..), decodeWord_encode (.ldsw ..),
    decodeWord_encode (.ldd ..)⟩
  · rw [extend_sign_byte_readBE, accessAddr_byte]
  · rw [extend_zero_word_readBE, accessAddr_word]
  · rw [extend_sign_word_readBE, accessAddr_word]
  · rw [extend, readBE_dword_eq_ofNat, accessAddr_dword]

/-- Settles O24: the bases read the same after STD, so each load is of a part of the dword that STD left in memory. -/
theorem storeThenLoad : Obligations.StoreThenLoad := by
  intro rs2 rs1 rd imm imm1 imm2 imm3 s t hwf hexec
  obtain ⟨hregs, hdword⟩ := holdsDword_of_std hwf hexec
  refine ⟨hdword.ldd rd (accessAddr_congr hregs ..), fun halign h1 h2 h3 => ?_⟩
  have hlt := (readReg rs2 s).isLt
  have hp : (accessAddr .dword rs1 imm s).toNat = baseSum rs1 imm s := by
    rw [accessAddr_dword]
    omega
  have haddr (j : Imm12) : (accessAddr .word rs1 j t).toNat = baseSum rs1 j s / 2 * 2 := by
    rw [accessAddr_word, baseSum_congr hregs]
  have hbase (j : Imm12) : baseSum rs1 j t = baseSum rs1 j s := baseSum_congr hregs rs1 j
  have hupper : (readReg rs2 s).toNat / 2 ^ 16 % 2 ^ 16 = (readReg rs2 s).toNat / 2 ^ 16 := by omega
  have hfirst : (readReg rs2 s).toNat / 2 ^ 24 % 2 ^ 8 = (readReg rs2 s).toNat / 2 ^ 24 := by omega
  refine ⟨?_, ?_, ?_, ?_, ?_, ?_⟩
  · exact hupper ▸ hdword.ldw rd (k := 0) (by rw [haddr]; omega) (by omega)
  · simpa using hdword.ldw rd (imm := imm2) (k := 2) (by rw [haddr]; omega) (by omega)
  · exact hfirst ▸ hdword.ldb rd (k := 0) (by rw [hbase]; omega) (by omega)
  · exact hdword.ldb rd (k := 1) (by rw [hbase]; omega) (by omega)
  · exact hdword.ldb rd (k := 2) (by rw [hbase]; omega) (by omega)
  · simpa using hdword.ldb rd (imm := imm3) (k := 3) (by rw [hbase]; omega) (by omega)

/-- Settles O25: an instruction that is no store keeps memory; a store changes its footprint, and that is RAM. -/
theorem memoryFrame : Obligations.MemoryFrame := by
  intro i s t h
  rcases exec_store_or_keepsMem h with ⟨w, rs2, rs1, imm, hi, hstore⟩ | ⟨-, hmem, hstored, -⟩
  · obtain ⟨hw, rfl⟩ := store_next hstore
    obtain ⟨hread, hrecord, -⟩ := onlyStores_writeBE w (accessAddr w rs1 imm s) (readReg rs2 s) s
    refine ⟨fun a ha => ?_, fun a ha => hread a (not_mem_footprint_of_not_ramAt hw ha), fun hnone => ?_⟩
    · have hout := ha w rs1 imm hi
      exact ⟨hread a hout, (hrecord a).trans (or_iff_right hout)⟩
    · rw [hi] at hnone
      cases hnone
  · exact ⟨fun a _ => ⟨by rw [hmem], by rw [hstored]⟩, fun a _ => by rw [hmem], fun _ => ⟨hmem, hstored⟩⟩

/-- No variant has SRM64 (D31; log 30), whatever the registers. -/
theorem assigned_of_srm64 {i : Instr} (h : i.extension = .srm64) (v : Variant) : i.assigned v = false := by
  rw [Instr.assigned, h, Variant.has, Bool.false_and]

/-- Settles O56: the three meanings are the fault, and the three rows are of SRM64. -/
theorem srm64RowsAreIllegal : Obligations.Srm64RowsAreIllegal := fun _ _ _ _ v =>
  ⟨rfl, rfl, rfl, assigned_of_srm64 rfl v, assigned_of_srm64 rfl v, assigned_of_srm64 rfl v⟩

end Sys2Proof.Machine
end

section
/-! SUPPORT. The two shapes of a jump (R180 to R182), the conditions of the conditional jumps as orders of numbers, and
the statements about JAL to JSGE (spec/43). -/

namespace Sys2Proof.Machine

/-- IP + 4 modulo 2^32, as a number. -/
theorem add_four_eq_ofNat (a : DWord) : a + 4 = BitVec.ofNat 32 (a.toNat + 4) := BitVec.add_def ..

/-! ## The conditions (R183 to R188) -/

section
variable (a b : DWord)

theorem condEq_iff : condEq a b = true ↔ a.toNat = b.toNat := beq_iff_eq.trans BitVec.toNat_inj.symm

theorem condLt_iff : condLt a b = true ↔ a.toNat < b.toNat := decide_eq_true_iff

theorem condSlt_iff : condSlt a b = true ↔ a.toInt < b.toInt := decide_eq_true_iff

theorem condNe_iff : condNe a b = true ↔ a.toNat ≠ b.toNat := bne_iff_ne.trans BitVec.toNat_inj.symm.not

theorem condGe_iff : condGe a b = true ↔ a.toNat ≥ b.toNat := decide_eq_true_iff

theorem condSge_iff : condSge a b = true ↔ a.toInt ≥ b.toInt := decide_eq_true_iff

end

/-! ## The shapes of the two families -/

section
variable {i : Instr} {s : State}

/-- R180, R181: an instruction whose meaning writes the link and sets IP jumps so. -/
theorem jumpsTo_of {rd : RegNum} {link target : DWord}
    (h : exec i s = .next (setPc target (writeReg rd link s))) : JumpsTo i rd link target s :=
  ⟨_, h, writesAndJumps_writeReg ..⟩

/-- R182: a conditional jump moves IP by the offset exactly where its condition holds, and by 4 elsewhere. -/
theorem onlyMovesTo_of_condJump {cond : DWord → DWord → Bool} {rs1 rs2 : RegNum} {imm : Imm12} {p : Prop} [Decidable p]
    (h : exec i s = condJump cond rs1 rs2 imm s) (hcond : cond (readReg rs1 s) (readReg rs2 s) = true ↔ p) :
    OnlyMovesTo i (if p then BitVec.ofInt 32 (s.pc.toNat + imm.toInt) else s.pc + 4) s := by
  rw [condJump] at h
  by_cases hp : p
  · rw [if_pos (hcond.2 hp)] at h
    rw [if_pos hp, ← add_sext12]
    exact ⟨_, h, onlyMoved_setPc ..⟩
  · rw [if_neg (hp ∘ hcond.1)] at h
    rw [if_neg hp]
    exact ⟨_, h, onlyMoved_setPc ..⟩

end

/-! ## The statements -/

/-- Settles O28: both write the link and set IP; the target is computed from the state before the link is written. -/
theorem jumpAndLink : Obligations.JumpAndLink := by
  intro rd rs1 imm21 imm s
  rw [← add_four_eq_ofNat, ← add_sext21, ← add_sext12]
  exact ⟨jumpsTo_of rfl, jumpsTo_of rfl, decodeWord_encode (.jal ..), decodeWord_encode (.jalr ..)⟩

/-- Settles O29: the family of conditional jumps with each of the six conditions. -/
theorem conditionalJumps : Obligations.ConditionalJumps := by
  intro rs1 rs2 imm s
  rw [← add_four_eq_ofNat]
  exact ⟨onlyMovesTo_of_condJump rfl (condEq_iff ..), onlyMovesTo_of_condJump rfl (condLt_iff ..),
    onlyMovesTo_of_condJump rfl (condSlt_iff ..), onlyMovesTo_of_condJump rfl (condNe_iff ..),
    onlyMovesTo_of_condJump rfl (condGe_iff ..), onlyMovesTo_of_condJump rfl (condSge_iff ..),
    decodeWord_encode (.jeq ..), decodeWord_encode (.jlt ..), decodeWord_encode (.jslt ..),
    decodeWord_encode (.jne ..), decodeWord_encode (.jge ..), decodeWord_encode (.jsge ..)⟩

end Sys2Proof.Machine
end

section
/-! SUPPORT. The instruction of each one-instruction mnemonic (R200) on the operands its entry gives it, and the
statements about NOP to LEA and RET to JGZ (spec/44). -/

namespace Sys2Proof.Machine

/-! ## The immediates of the entries -/

theorem sext12_neg_one : sext12 (-1) = BitVec.allOnes 32 := rfl

/-- R207: RET adds nothing to the return address. -/
theorem add_sext12_zero (a : DWord) : a + sext12 0 = a := BitVec.add_zero a

/-- R203: the extended immediate of INC. -/
theorem add_sext12_one (a : DWord) : a + sext12 1 = a + 1 := rfl

/-- R202: every bit of the extended immediate of NOT is 1. -/
theorem xor_sext12_neg_one (a : DWord) : a ^^^ sext12 (-1) = ~~~a := by
  rw [sext12_neg_one, BitVec.xor_allOnes]

/-- R204: adding the extended immediate of DEC borrows 1 modulo 2^32. -/
theorem add_sext12_neg_one (a : DWord) : a + sext12 (-1) = a - 1 := by
  rw [sext12_neg_one, ← BitVec.neg_one_eq_allOnes, ← BitVec.sub_eq_add_neg]
  rfl

/-- R62: base plus signed displacement as a dword. -/
theorem add_sext12_eq_ofNat_baseSum (rs1 : RegNum) (imm : Imm12) (s : State) :
    readReg rs1 s + sext12 imm = BitVec.ofNat 32 (baseSum rs1 imm s) := by
  rw [← effAddr_toNat, BitVec.ofNat_toNat, BitVec.setWidth_eq, effAddr]

/-! ## The conditions with `zr` (R216 to R219) -/

section
variable (a : DWord)

theorem condEq_zero_iff : condEq a 0 = true ↔ a.toInt = 0 := beq_iff_eq.trans BitVec.toInt_inj.symm

theorem condNe_zero_iff : condNe a 0 = true ↔ a.toInt ≠ 0 := bne_iff_ne.trans BitVec.toInt_inj.symm.not

theorem condSlt_zero_iff : condSlt a 0 = true ↔ a.toInt < 0 := condSlt_iff a 0

theorem zero_condSlt_iff : condSlt 0 a = true ↔ a.toInt > 0 := condSlt_iff 0 a

end

/-! ## The destination `zr` (R21) -/

/-- A write to `r0` is discarded, so nothing but IP is left of the instruction. -/
theorem JumpsTo.onlyMovesTo {i : Instr} {v target : DWord} {s : State} (h : JumpsTo i 0 v target s) :
    OnlyMovesTo i target s := by
  obtain ⟨t, hnext, hzero, hpc, hregs, hframe⟩ := h
  refine ⟨t, hnext, hpc, fun r _ => ?_, hframe⟩
  by_cases hr : r = 0
  · rw [hr, hzero]
    rfl
  · exact hregs r (by simpa using hr)

/-! ## The statements -/

/-- Settles O57: each is of the register or the immediate family, with the value its operands give. -/
theorem pseudoArithmetic : Obligations.PseudoArithmetic := by
  intro rd rs1 rs2 imm s
  refine ⟨⟨rfl, rfl, ?nop⟩, ⟨rfl, ?not⟩, ⟨rfl, ?inc⟩, ⟨rfl, ?dec⟩, ⟨rfl, ?mov⟩, ⟨rfl, ?clr⟩, ⟨rfl, ?neg⟩,
    ⟨rfl, ?slt⟩, ⟨rfl, ?sgt⟩, ⟨rfl, ?lea⟩⟩
  case nop => exact JumpsTo.onlyMovesTo (completesWith_of_aluReg (· + ·) rfl rfl)
  case not => exact completesWith_of_aluImm (· ^^^ ·) rfl (xor_sext12_neg_one _)
  case inc => exact completesWith_of_aluImm (· + ·) rfl (add_sext12_one _)
  case dec => exact completesWith_of_aluImm (· + ·) rfl (add_sext12_neg_one _)
  case mov => exact completesWith_of_aluReg (· + ·) rfl (BitVec.add_zero _)
  case clr => exact completesWith_of_aluReg (· ^^^ ·) rfl BitVec.xor_self
  case neg => exact completesWith_of_aluReg (· - ·) rfl (BitVec.zero_sub _)
  case slt => exact completesWith_of_aluReg (fun a b => ofBool (borrowOut a b)) rfl (ofBool_borrowOut ..)
  case sgt => exact completesWith_of_aluReg (fun a b => ofBool (borrowOut a b)) rfl (ofBool_borrowOut ..)
  case lea => exact completesWith_of_aluImm (· + ·) rfl (add_sext12_eq_ofNat_baseSum ..)

/-- Settles O58: RET and JMP link to `r0`; the others are conditional jumps with the operands swapped or one of them
`zr`. -/
theorem pseudoJumps : Obligations.PseudoJumps := by
  intro rs1 rs2 imm imm21 s
  have hret : JumpsTo (.jalr 0 4 0) 0 (s.pc + 4) (readReg 4 s + sext12 0) s := jumpsTo_of rfl
  rw [add_sext12_zero] at hret
  have hjmp : JumpsTo (.jal 0 imm21) 0 (s.pc + 4) (s.pc + sext21 imm21) s := jumpsTo_of rfl
  rw [add_sext21] at hjmp
  exact ⟨⟨rfl, rfl, hret.onlyMovesTo⟩,
    ⟨rfl, onlyMovesTo_of_condJump rfl (condGe_iff ..)⟩,
    ⟨rfl, onlyMovesTo_of_condJump rfl (condLt_iff ..)⟩,
    ⟨rfl, rfl, hjmp.onlyMovesTo⟩,
    ⟨rfl, onlyMovesTo_of_condJump rfl (condEq_zero_iff _)⟩,
    ⟨rfl, onlyMovesTo_of_condJump rfl (condNe_zero_iff _)⟩,
    ⟨rfl, onlyMovesTo_of_condJump rfl (condSlt_zero_iff _)⟩,
    ⟨rfl, onlyMovesTo_of_condJump rfl (zero_condSlt_iff _)⟩⟩

end Sys2Proof.Machine
end

section
/-! SUPPORT. Instructions one after another: what a completed instruction hands to the next, and the statements about
XCHG and LDI (spec/44). -/

namespace Sys2Proof.Machine

/-! ## Frames along a run -/

section
variable {s t u : State} {rds : List RegNum}

theorem SameCsrs.trans (h : SameCsrs s t) (h' : SameCsrs t u) : SameCsrs s u := by
  unfold SameCsrs SameMachineCsrs SameKernelCsrs at *
  simp only [h', h, and_self]

theorem SameMem.trans (h : SameMem s t) (h' : SameMem t u) : SameMem s u :=
  ⟨fun a => (h'.1 a).trans (h.1 a), h'.2.trans h.2⟩

theorem SameOutside.trans (h : SameOutside s t) (h' : SameOutside t u) : SameOutside s u := by
  unfold SameOutside SameIrqs at *
  simp only [h', h, and_self]

/-- From `s` to `t` nothing changed but IP and the registers listed. -/
def OnlyRegsAndIp (rds : List RegNum) (s t : State) : Prop :=
  SameRegsBut rds s t ∧ SameCsrs s t ∧ SameMem s t ∧ SameOutside s t

theorem OnlyRegsAndIp.trans (h : OnlyRegsAndIp rds s t) (h' : OnlyRegsAndIp rds t u) : OnlyRegsAndIp rds s u := by
  obtain ⟨hregs, hcsrs, hmem, hout⟩ := h
  obtain ⟨hregs', hcsrs', hmem', hout'⟩ := h'
  exact ⟨fun r hr => (hregs' r hr).trans (hregs r hr), hcsrs.trans hcsrs', hmem.trans hmem', hout.trans hout'⟩

theorem OnlyRegsAndIp.mono {rds' : List RegNum} (h : OnlyRegsAndIp rds s t) (hsub : rds ⊆ rds') :
    OnlyRegsAndIp rds' s t :=
  ⟨fun r hr => h.1 r fun hmem => hr (hsub hmem), h.2⟩

end

/-! ## A completed instruction as the next one finds it -/

section
variable {r rd : RegNum} {v w p q : DWord} {s t u : State}

theorem writesAndJumps_iff : WritesAndJumps rd v p s t ↔
    readReg rd t = (if rd = 0 then 0 else v) ∧ t.pc = p ∧ OnlyRegsAndIp [rd] s t := Iff.rfl

theorem WritesAndJumps.readReg_dest (h : WritesAndJumps rd v p s t) (hrd : rd ≠ 0) : readReg rd t = v :=
  h.1.trans (if_neg hrd)

theorem WritesAndJumps.readReg_other (h : WritesAndJumps rd v p s t) (hr : r ≠ rd) : readReg r t = readReg r s :=
  (writesAndJumps_iff.1 h).2.2.1 r (by simpa using hr)

theorem WritesAndJumps.pc_eq (h : WritesAndJumps rd v p s t) : t.pc = p := h.2.1

theorem WritesAndJumps.onlyRegsAndIp (h : WritesAndJumps rd v p s t) : OnlyRegsAndIp [rd] s t := h.2.2

/-- What would be written to `r0` does not matter (R21). -/
theorem WritesAndJumps.congr_value (h : WritesAndJumps rd v p s t) (hv : rd ≠ 0 → v = w) :
    WritesAndJumps rd w p s t := by
  obtain ⟨hread, hrest⟩ := h
  refine ⟨?_, hrest⟩
  by_cases hrd : rd = 0
  · rw [hread, if_pos hrd, if_pos hrd]
  · rw [hread, hv hrd]

/-- Of two writes to one register the second is left. -/
theorem WritesAndJumps.trans (h : WritesAndJumps rd v p s t) (h' : WritesAndJumps rd w q t u) :
    WritesAndJumps rd w q s u :=
  ⟨h'.1, h'.pc_eq, h.onlyRegsAndIp.trans h'.onlyRegsAndIp⟩

theorem execAll_cons_of_next {i : Instr} (h : exec i s = .next t) (is : List Instr) :
    execAll (i :: is) s = execAll is t := by
  rw [execAll, h]

end

/-! ## XCHG (R234) -/

section
variable {a b : RegNum} {p q r : DWord} {s t u v : State}
  (h1 : WritesAndJumps a (readReg a s ^^^ readReg b s) p s t)
  (h2 : WritesAndJumps b (readReg a t ^^^ readReg b t) q t u)
  (h3 : WritesAndJumps a (readReg a u ^^^ readReg b u) r u v)
include h1 h2 h3

/-- After the second XOR `b` holds the old value of `a`, and `a` still holds the exclusive or of both. -/
theorem readReg_of_three_xors (hab : a ≠ b) (ha : a ≠ 0) (hb : b ≠ 0) :
    readReg a v = readReg b s ∧ readReg b v = readReg a s := by
  have hbt : readReg b t = readReg b s := h1.readReg_other hab.symm
  have hat : readReg a t = readReg a s ^^^ readReg b s := h1.readReg_dest ha
  have hau : readReg a u = readReg a s ^^^ readReg b s := (h2.readReg_other hab).trans hat
  have hbu : readReg b u = readReg a s := by
    rw [h2.readReg_dest hb, hat, hbt, BitVec.xor_assoc, BitVec.xor_self, BitVec.xor_zero]
  refine ⟨?_, (h3.readReg_other hab.symm).trans hbu⟩
  rw [h3.readReg_dest ha, hau, hbu, BitVec.xor_comm, ← BitVec.xor_assoc, BitVec.xor_self, BitVec.zero_xor]

/-- `zr` reads 0 and takes no value, so the XORs write the other register with itself. -/
theorem readReg_of_three_xors_zero (hab : a ≠ b) (h0 : a = 0 ∨ b = 0) :
    readReg a v = readReg a s ∧ readReg b v = readReg b s := by
  rcases h0 with rfl | rfl
  · have hbt : readReg b t = readReg b s := h1.readReg_other hab.symm
    have hbu : readReg b u = readReg b s := by simp [h2.readReg_dest hab.symm, hbt]
    exact ⟨rfl, (h3.readReg_other hab.symm).trans hbu⟩
  · have hat : readReg a t = readReg a s := by simp [h1.readReg_dest hab]
    have hau : readReg a u = readReg a s := (h2.readReg_other hab).trans hat
    exact ⟨by simp [h3.readReg_dest hab, hau], rfl⟩

end

theorem xor_completesWith (rd rs1 rs2 : RegNum) (s : State) :
    CompletesWith (.xor rd rs1 rs2) rd (readReg rs1 s ^^^ readReg rs2 s) s :=
  completesWith_of_aluReg (· ^^^ ·) rfl rfl

/-- Settles O59: the three XORs are followed through the two states between them. -/
theorem exchangeSwaps : Obligations.ExchangeSwaps := by
  intro a b s
  obtain ⟨t, hst, h1⟩ := xor_completesWith a a b s
  obtain ⟨u, htu, h2⟩ := xor_completesWith b a b t
  obtain ⟨v, huv, h3⟩ := xor_completesWith a a b u
  have hrun : execAll [.xor a a b, .xor b a b, .xor a a b] s = .next v := by
    rw [execAll_cons_of_next hst, execAll_cons_of_next htu, execAll_cons_of_next huv, execAll]
  have hpc : v.pc = s.pc + 12 := by
    rw [h3.pc_eq, h2.pc_eq, h1.pc_eq, BitVec.add_assoc, BitVec.add_assoc]
    rfl
  have ha : [a] ⊆ [a, b] := by simp
  have hb : [b] ⊆ [a, b] := by simp
  obtain ⟨hregs, hcsrs, hmem, hout⟩ : OnlyRegsAndIp [a, b] s v :=
    ((h1.onlyRegsAndIp.mono ha).trans (h2.onlyRegsAndIp.mono hb)).trans (h3.onlyRegsAndIp.mono ha)
  refine ⟨_, v, rfl, rfl, hrun, hpc, hregs, hcsrs, hmem, hout, readReg_of_three_xors h1 h2 h3, ?_,
    readReg_of_three_xors_zero h1 h2 h3⟩
  rintro rfl
  simp [h3.1]

/-! ## LDI (R231) -/

/-- A constant that a 12-bit signed immediate holds is the extension of its low 12 bits. -/
theorem sext12_low (imm : DWord) (h : -2048 ≤ imm.toInt ∧ imm.toInt ≤ 2047) : sext12 (imm.extractLsb' 0 12) = imm := by
  have hlt := imm.isLt
  rw [BitVec.toInt_eq_toNat_cond] at h
  apply BitVec.eq_of_toNat_eq
  rw [sext12_toNat, slice_toNat]
  split at h <;> split <;> omega

/-- Bit 11 of the immediate of LDI's ADDI is 0, so it is not extended by ones and adds only the low 11 bits. -/
theorem sext12_low_eleven (imm : DWord) :
    sext12 ((imm.extractLsb' 0 11).setWidth 12) = BitVec.ofNat 32 (imm.toNat % 2 ^ 11) := by
  apply BitVec.eq_of_toNat_eq
  rw [sext12_toNat, BitVec.toNat_setWidth, slice_toNat, BitVec.toNat_ofNat, if_neg (by omega)]
  omega

/-- The high 21 bits of a constant as LUI's operand and its low 11 bits as ADDI's. -/
theorem upperImm_add_sext12 (imm : DWord) :
    upperImm (imm.extractLsb' 11 21) + sext12 ((imm.extractLsb' 0 11).setWidth 12) = imm := by
  have hlt := imm.isLt
  rw [upperImm_eq_ofNat, slice_toNat, sext12_low_eleven, ← BitVec.ofNat_add]
  apply BitVec.eq_of_toNat_eq
  rw [BitVec.toNat_ofNat]
  omega

theorem upperImm_of_low_zero (imm : DWord) (h : imm.extractLsb' 0 11 = 0) : upperImm (imm.extractLsb' 11 21) = imm := by
  have hsum := upperImm_add_sext12 imm
  rw [h] at hsum
  exact (BitVec.add_zero _).symm.trans hsum

/-- The instructions run to completion; then `rd` holds `v`, IP is past them, and nothing else changed. -/
def RunsTo (is : List Instr) (rd : RegNum) (v : DWord) (s : State) : Prop :=
  ∃ t, execAll is s = .next t ∧ WritesAndJumps rd v (s.pc + BitVec.ofNat 32 (4 * is.length)) s t

section
variable {i j : Instr} {rd : RegNum} {v w : DWord} {s : State}

theorem CompletesWith.runsTo (h : CompletesWith i rd v s) : RunsTo [i] rd v s := by
  obtain ⟨t, hst, hw⟩ := h
  exact ⟨t, execAll_cons_of_next hst [], hw⟩

/-- A register is written, and then replaced by a function of what it holds. -/
theorem CompletesWith.runsTo_pair (h : CompletesWith i rd v s) (f : DWord → DWord)
    (h' : ∀ t, CompletesWith j rd (f (readReg rd t)) t) (hf : f v = w) : RunsTo [i, j] rd w s := by
  subst hf
  obtain ⟨t, hst, hw⟩ := h
  obtain ⟨u, htu, hw'⟩ := h' t
  have hpc : t.pc + 4 = s.pc + BitVec.ofNat 32 (4 * [i, j].length) := by
    rw [hw.pc_eq, BitVec.add_assoc]
    rfl
  refine ⟨u, ?_, ?_⟩
  · rw [execAll_cons_of_next hst, execAll_cons_of_next htu, execAll]
  · rw [← hpc]
    exact hw.trans (hw'.congr_value fun hrd => congrArg f (hw.readReg_dest hrd))

end

theorem lui_completesWith (rd : RegNum) (imm : Imm21) (s : State) : CompletesWith (.lui rd imm) rd (upperImm imm) s :=
  completesWith_of rfl

theorem addi_completesWith (rd rs1 : RegNum) (imm : Imm12) (s : State) :
    CompletesWith (.addi rd rs1 imm) rd (readReg rs1 s + sext12 imm) s :=
  completesWith_of_aluImm (· + ·) rfl rfl

theorem length_expandLdi_le (rd : RegNum) (imm : DWord) : (expandLdi rd imm).length ≤ 2 := by
  unfold expandLdi
  split_ifs <;> simp

theorem expandLdi_runsTo (rd : RegNum) (imm : DWord) (s : State) : RunsTo (expandLdi rd imm) rd imm s := by
  unfold expandLdi
  split_ifs with hsmall hlow
  · have h := addi_completesWith rd 0 (imm.extractLsb' 0 12) s
    rw [readReg_zero, sext12_low imm hsmall, zero_add] at h
    exact h.runsTo
  · have h := lui_completesWith rd (imm.extractLsb' 11 21) s
    rw [upperImm_of_low_zero imm hlow] at h
    exact h.runsTo
  · exact (lui_completesWith rd _ s).runsTo_pair (· + sext12 _) (addi_completesWith rd rd _) (upperImm_add_sext12 imm)

/-- Settles O60: one ADDI for a constant of 12 signed bits, else LUI with its high 21 bits and, where its low 11 bits
are not 0, ADDI with those. -/
theorem loadImmediateLoadsAnyConstant : Obligations.LoadImmediateLoadsAnyConstant := by
  intro rd imm s
  obtain ⟨t, hrun, hwrites⟩ := expandLdi_runsTo rd imm s
  exact ⟨_, t, rfl, length_expandLdi_le rd imm, hrun, hwrites⟩

end Sys2Proof.Machine
end

section
/-! SUPPORT. INT, MRET and SYSRET through the shared trap entry and return (R261 to R263, R411 to R420), what the
privileged forms do below their level (R260), and the statements about them (spec/45). -/

namespace Sys2Proof.Machine

/-! ## Trap entry at each level (R411 to R414, R416) -/

section
variable (c ra : DWord) {s : State}

theorem trapEnter_of_user (hm : mode s = .user) : trapEnter c ra s = .next (enterFromUser c ra s) := by
  rw [trapEnter, hm]

theorem trapEnter_of_kernel (hm : mode s = .kernel) : trapEnter c ra s = .next (enterFromKernel c ra s) := by
  rw [trapEnter, hm]

theorem trapEnter_of_machine (hm : mode s = .machine) : trapEnter c ra s = .next (enterFromMachine c ra s) := by
  rw [trapEnter, hm]

theorem trapEnter_of_reserved (hm : mode s = .reserved) : trapEnter c ra s = .fault .reservedPrivilege := by
  rw [trapEnter, hm]

end

/-- R261: clearing bits 1:0 of the immediate rounds it down to a multiple of 4. -/
theorem intCause_eq_ofNat (imm : Imm21) : intCause imm = BitVec.ofNat 32 (imm.toNat / 4 * 4) := by
  have hlt := imm.isLt
  have hzero : (0 : BitVec 2).toNat = 0 := rfl
  apply BitVec.eq_of_toNat_eq
  rw [intCause, BitVec.toNat_setWidth, append_toNat, BitVec.extractLsb'_toNat, Nat.shiftRight_eq_div_pow,
    hzero, BitVec.toNat_ofNat]
  omega

/-- Settles O30: INT is the trap entry of its level. -/
theorem interruptInstruction : Obligations.InterruptInstruction := by
  intro imm s
  rw [← intCause_eq_ofNat]
  exact ⟨fun hm => ⟨_, trapEnter_of_user _ _ hm, entersKernel_enterFromUser ..⟩,
    fun hm => ⟨_, trapEnter_of_kernel _ _ hm, entersMachine_enterFromKernel ..⟩,
    fun hm => ⟨_, trapEnter_of_machine _ _ hm, entersMachine_enterFromMachine _ _ hm⟩,
    trapEnter_of_reserved _ _⟩

/-! ## Returns (R420) -/

theorem PrivMode.level_injective : Function.Injective PrivMode.level := by
  intro a b h
  cases a <;> cases b <;> cases h <;> rfl

/-- R37, R42: bits 1:0 of a saved-mode CSR name the level. -/
theorem savedMode_eq_iff (v : DWord) (m : PrivMode) : savedMode v = m ↔ v.toNat % 4 = m.level := by
  rw [← savedMode_level, PrivMode.level_injective.eq_iff]

theorem returnsTo_setMode (target : DWord) (m : PrivMode) (s : State) :
    ReturnsTo target m s (setMode m (setPc target s)) :=
  ⟨rfl, mode_setMode .., sameStatusButMode_setMode m (setPc target s), ⟨rfl, rfl, rfl, rfl⟩,
    ⟨rfl, rfl, rfl, rfl, rfl⟩, fun _ _ => rfl, ⟨fun _ => rfl, rfl⟩, rfl, rfl, rfl, rfl, rfl⟩

section
variable {i : Instr} {ra v : DWord} {s : State} (hexec : exec i s = trapReturn ra v s)
include hexec

/-- A return to a legal level completes. -/
theorem next_of_trapReturn {m : PrivMode} (hm : m ≠ .reserved) (hv : v.toNat % 4 = m.level) :
    ∃ t, exec i s = .next t ∧ ReturnsTo ra m s t := by
  obtain rfl := (savedMode_eq_iff v m).2 hv
  refine ⟨_, ?_, returnsTo_setMode ..⟩
  rw [hexec, trapReturn, if_neg hm]

/-- A return to level 2 is a fault (D19). -/
theorem fault_of_trapReturn (hv : v.toNat % 4 = 2) : exec i s = .fault .reservedPrivilege := by
  rw [hexec, trapReturn, if_pos ((savedMode_eq_iff v .reserved).2 hv)]

end

theorem exec_mret_of_machine {s : State} (hm : mode s = .machine) : exec .mret s = trapReturn s.mra s.mpriv s :=
  if_pos hm

theorem exec_sysret_of_not_user {s : State} (hm : mode s ≠ .user) : exec .sysret s = trapReturn s.kra s.kpriv s :=
  if_neg (mt (PrivMode.level_lt_one_iff _).1 hm)

/-- Settles O31: at Machine level MRET is the return by `mra` and `mpriv`. -/
theorem machineReturn : Obligations.MachineReturn := fun _ hs =>
  have hexec := exec_mret_of_machine hs
  ⟨fun _ => next_of_trapReturn hexec, fault_of_trapReturn hexec⟩

/-- Settles O32: above User level SYSRET is the return by `kra` and `kpriv`. -/
theorem systemReturn : Obligations.SystemReturn := fun _ hs =>
  have hexec := exec_sysret_of_not_user hs
  ⟨fun _ => next_of_trapReturn hexec, fault_of_trapReturn hexec⟩

/-! ## Below the level an instruction needs (R260, R278) -/

theorem exec_mret_of_not_machine {s : State} (hm : mode s ≠ .machine) : exec .mret s = .fault .privilegeViolation :=
  if_neg hm

section
variable {s : State} (hm : mode s = .user)
include hm

theorem exec_sysret_of_user : exec .sysret s = .fault .privilegeViolation :=
  if_pos ((PrivMode.level_lt_one_iff _).2 hm)

theorem portIn_of_user (w : Width) (x : Ext) (rd rs1 : RegNum) (imm : Imm12) :
    portIn w x rd rs1 imm s = .fault .privilegeViolation :=
  if_pos ((PrivMode.level_lt_one_iff _).2 hm)

theorem portOut_of_user (w : Width) (rs2 rs1 : RegNum) (imm : Imm12) :
    portOut w rs2 rs1 imm s = .fault .privilegeViolation :=
  if_pos ((PrivMode.level_lt_one_iff _).2 hm)

end

/-- Settles O41: a port instruction is one of the two shared operations, and each of those looks at the level first. -/
theorem privilegeViolations : Obligations.PrivilegeViolations := by
  intro i s
  refine ⟨fun hm hport => ?_, exec_sysret_of_user, exec_mret_of_not_machine⟩
  obtain ⟨⟨w, rs1, imm⟩, hi⟩ := Option.isSome_iff_exists.1 hport
  rcases exec_eq_portIn_or_portOut hi with ⟨x, rd, hexec⟩ | ⟨rs2, hexec⟩
  · exact (hexec s).trans (portIn_of_user hm ..)
  · exact (hexec s).trans (portOut_of_user hm ..)

end Sys2Proof.Machine
end

section
/-! SUPPORT. CSR access by number (R30 to R43): what a write leaves in each CSR and what a read gives, and the
statements about CSRW, CSRR, CSRS and CSRC (spec/45). -/

namespace Sys2Proof.Machine

/-! ## A CSR after a write (R265, R266) -/

section
variable {j k : CsrNum} (v : DWord) (s : State)

/-- R43: behind any other number there is no state. -/
theorem setCsr_of_not_defined (hk : k ∉ definedCsrs) : setCsr k v s = s := by
  have hne : ∀ d ∈ definedCsrs, k.toNat ≠ d.toNat := fun d hd h => hk (BitVec.eq_of_toNat_eq h ▸ hd)
  simp_all [definedCsrs, setCsr]

theorem csrStored_setCsr_same : ∀ k ∈ definedCsrs, csrStored k (setCsr k v s) = v := by
  simp [definedCsrs, csrStored, setCsr]

/-- The ten CSRs are ten different fields of the state. -/
theorem csrStored_setCsr_of_defined : ∀ j ∈ definedCsrs, ∀ k ∈ definedCsrs, j ≠ k →
    csrStored j (setCsr k v s) = csrStored j s := by
  simp only [definedCsrs, List.forall_mem_cons]
  simp [csrStored, setCsr]

theorem csrStored_setCsr_other (hj : j ∈ definedCsrs) (hne : j ≠ k) : csrStored j (setCsr k v s) = csrStored j s := by
  by_cases hk : k ∈ definedCsrs
  · exact csrStored_setCsr_of_defined v s j hj k hk hne
  · rw [setCsr_of_not_defined v s hk]

theorem writesCsr_setCsr (k : CsrNum) : WritesCsr k v s (advance (setCsr k v s)) :=
  ⟨csrStored_setCsr_same v s k, fun _ => csrStored_setCsr_other v s, by simp, fun r _ => by simp,
    ⟨fun _ => by simp, by simp⟩, by simp, by simp, by simp, by simp, by simp⟩

end

/-- R401: only csr0 holds the mode field, in its bits 2:1. -/
theorem writesReservedMode_eq_false {k : CsrNum} {v : DWord} (h : k = 0 → v.toNat / 2 % 4 ≠ 2) :
    writesReservedMode k v = false := by
  rw [writesReservedMode, Bool.and_eq_false_imp]
  intro hk
  rw [beq_eq_false_iff_ne]
  intro hreserved
  refine h (beq_iff_eq.1 hk) ?_
  rw [← modeField_level, hreserved]
  rfl

section
variable {i : Instr} {k : CsrNum} {v : DWord} {s : State} (hexec : exec i s = writeCsr k v s)
include hexec

/-- A permitted write that keeps off the reserved level completes. -/
theorem next_of_writeCsr (ha : csrAllowed k s = true) (hv : k = 0 → v.toNat / 2 % 4 ≠ 2) :
    ∃ t, exec i s = .next t ∧ WritesCsr k v s t := by
  refine ⟨_, ?_, writesCsr_setCsr v s k⟩
  rw [hexec, writeCsr, if_pos ha, writesReservedMode_eq_false hv]
  rfl

/-- A refused write only advances IP. -/
theorem onlyMovesTo_of_writeCsr (ha : csrAllowed k s = false) : OnlyMovesTo i (s.pc + 4) s := by
  refine ⟨_, ?_, onlyMoved_setPc ..⟩
  rw [hexec, writeCsr, if_neg (ne_true_of_eq_false ha), advance]

end

/-- Settles O35: CSRW is a write of the whole register. -/
theorem csrWrite : Obligations.CsrWrite := fun _ _ _ => ⟨next_of_writeCsr rfl, onlyMovesTo_of_writeCsr rfl⟩

/-! ## One bit of a CSR (R268, R269) -/

section
variable {v c : DWord} {pos : BitPos}

theorem getLsbD_csrBitMask (pos : BitPos) {b : Nat} (hb : b < 32) :
    (csrBitMask pos).getLsbD b = decide (b = pos.toNat) := by
  have hmask : csrBitMask pos = BitVec.twoPow 32 pos.toNat := rfl
  rw [hmask, BitVec.getLsbD_twoPow, ← Bool.decide_and]
  exact decide_eq_decide.2 (by omega)

theorem eq_or_csrBitMask (h : ∀ b < 32, v.getLsbD b = (decide (b = pos.toNat) || c.getLsbD b)) :
    v = c ||| csrBitMask pos := by
  apply BitVec.eq_of_getLsbD_eq
  intro b hb
  rw [h b hb, BitVec.getLsbD_or, getLsbD_csrBitMask pos hb, Bool.or_comm]

theorem eq_and_not_csrBitMask (h : ∀ b < 32, v.getLsbD b = (decide (b ≠ pos.toNat) && c.getLsbD b)) :
    v = c &&& ~~~csrBitMask pos := by
  apply BitVec.eq_of_getLsbD_eq
  intro b hb
  rw [h b hb, BitVec.getLsbD_and, BitVec.getLsbD_not, getLsbD_csrBitMask pos hb, decide_not, decide_eq_true hb,
    Bool.true_and, Bool.and_comm]

end

section
variable (k : CsrNum) {pos : BitPos} (s : State)

theorem exec_csrs_of_lt (h : pos.toNat < 32) :
    exec (.csrs k pos) s = writeCsr k (csrStored k s ||| csrBitMask pos) s := if_pos h

theorem exec_csrc_of_lt (h : pos.toNat < 32) :
    exec (.csrc k pos) s = writeCsr k (csrStored k s &&& ~~~csrBitMask pos) s := if_pos h

/-- D17: a position past bit 31 names no bit. -/
theorem onlyMovesTo_csrs_of_le (h : 32 ≤ pos.toNat) : OnlyMovesTo (.csrs k pos) (s.pc + 4) s :=
  ⟨_, if_neg (Nat.not_lt.2 h), onlyMoved_setPc ..⟩

theorem onlyMovesTo_csrc_of_le (h : 32 ≤ pos.toNat) : OnlyMovesTo (.csrc k pos) (s.pc + 4) s :=
  ⟨_, if_neg (Nat.not_lt.2 h), onlyMoved_setPc ..⟩

end

/-- Settles O37: a position below 32 makes a CSR write of the word with that bit changed, any other only moves IP. -/
theorem csrBitSetAndClear : Obligations.CsrBitSetAndClear := by
  intro k pos s
  refine ⟨fun ha hpos => ⟨fun v hbits hv => ?_, fun v hbits hv => ?_⟩, fun hnone => ?_⟩
  · obtain rfl := eq_or_csrBitMask hbits
    exact next_of_writeCsr (exec_csrs_of_lt k s hpos) ha hv
  · obtain rfl := eq_and_not_csrBitMask hbits
    exact next_of_writeCsr (exec_csrc_of_lt k s hpos) ha hv
  · rcases Nat.lt_or_ge pos.toNat 32 with hpos | hpos
    · have ha : csrAllowed k s = false := hnone.resolve_right (Nat.not_le.2 hpos)
      exact ⟨onlyMovesTo_of_writeCsr (exec_csrs_of_lt k s hpos) ha,
        onlyMovesTo_of_writeCsr (exec_csrc_of_lt k s hpos) ha⟩
    · exact ⟨onlyMovesTo_csrs_of_le k s hpos, onlyMovesTo_csrc_of_le k s hpos⟩

/-! ## What a read gives (R33, R38, R43, R267) -/

section
variable (s : State)

/-- R33: the defined bits of `mstatus` are bits 2:0. -/
theorem getLsbD_csrValue_mstatus {b : Nat} (hb : b < 3) : (csrValue 0 s).getLsbD b = s.mstatus.getLsbD b := by
  have hvalue : csrValue 0 s = (reservedRead 0 s).extractLsb' 3 29 ++ s.mstatus.extractLsb' 0 3 := rfl
  rw [hvalue, BitVec.getLsbD_append, if_pos hb]
  simp [hb]

/-- R38: the defined bit of `kstatus` is bit 0. -/
theorem getLsbD_csrValue_kstatus : (csrValue 2048 s).getLsbD 0 = s.kstatus.getLsbD 0 := by
  have hvalue : csrValue 2048 s = (reservedRead 2048 s).extractLsb' 1 31 ++ s.kstatus.extractLsb' 0 1 := rfl
  rw [hvalue, BitVec.getLsbD_append, if_pos Nat.zero_lt_one]
  simp

/-- The CSRs without reserved bits read as they are stored. -/
theorem csrValue_eq_csrStored : ∀ k ∈ definedCsrs, k ≠ 0 → k ≠ 2048 → csrValue k s = csrStored k s := by
  simp [definedCsrs, csrValue, csrStored]

/-- What CSRR writes into its destination. -/
def csrReadValue (k : CsrNum) (s : State) : DWord := if csrAllowed k s then csrValue k s else 0

theorem csrReadValue_of_allowed {k : CsrNum} (h : csrAllowed k s = true) : csrReadValue k s = csrValue k s := if_pos h

theorem csrReadValue_of_refused {k : CsrNum} (h : csrAllowed k s = false) : csrReadValue k s = 0 :=
  if_neg (ne_true_of_eq_false h)

/-- The state once the draw of a CSR read is counted. -/
def countDraw (s : State) : State := { s with freeDraws := s.freeDraws + 1 }

theorem exec_csrr (rd : RegNum) (k : CsrNum) :
    exec (.csrr rd k) s = .next (setPc (s.pc + 4) (writeReg rd (csrReadValue k s) (countDraw s))) := by
  have hpc : (writeReg rd (csrReadValue k s) (countDraw s)).pc = s.pc := writeReg_pc ..
  rw [← hpc]
  rfl

end

/-- Settles O36: CSRR counts a draw, writes one register and advances. -/
theorem csrRead : Obligations.CsrRead := by
  intro rd k s
  obtain ⟨hread, hpc, hregs, hcsrs, hmem, hport, hdraws, hirqs⟩ :=
    writesAndJumps_writeReg rd (csrReadValue k s) (s.pc + 4) (countDraw s)
  refine ⟨_, csrReadValue k s, exec_csrr s rd k, hread, csrReadValue_of_refused s, ?mstatus, ?kstatus, ?whole, hpc,
    hregs, hcsrs, hmem, hport, hirqs, hdraws⟩
  case mstatus =>
    rintro ha rfl b hb
    rw [csrReadValue_of_allowed s ha, getLsbD_csrValue_mstatus s hb]
  case kstatus =>
    rintro ha rfl
    rw [csrReadValue_of_allowed s ha, getLsbD_csrValue_kstatus]
  case whole =>
    intro ha hk h0 h2048
    rw [csrReadValue_of_allowed s ha, csrValue_eq_csrStored s k hk h0 h2048]

end Sys2Proof.Machine
end

section
/-! SUPPORT. The port families (R278) as one transaction, the numbers their addresses and values are, and the statements
about INB to OUTD (spec/45). -/

namespace Sys2Proof.Machine

/-! ## Addresses and values as numbers (R63, R67) -/

section
variable (rs1 : RegNum) (imm : Imm12) (s : State)

theorem accessAddr_byte_eq_ofNat : accessAddr .byte rs1 imm s = BitVec.ofNat 32 (baseSum rs1 imm s) := by
  rw [← accessAddr_byte, BitVec.ofNat_toNat, BitVec.setWidth_eq]

theorem accessAddr_word_eq_ofNat : accessAddr .word rs1 imm s = BitVec.ofNat 32 (baseSum rs1 imm s / 2 * 2) := by
  rw [← accessAddr_word, BitVec.ofNat_toNat, BitVec.setWidth_eq]

theorem accessAddr_dword_eq_ofNat : accessAddr .dword rs1 imm s = BitVec.ofNat 32 (baseSum rs1 imm s / 4 * 4) := by
  rw [← accessAddr_dword, BitVec.ofNat_toNat, BitVec.setWidth_eq]

end

section
variable (v : DWord)

theorem setWidth_slice_zero (n : Nat) :
    (v.extractLsb' 0 n).setWidth 32 = BitVec.ofNat 32 (v.toNat % 2 ^ n) := by
  rw [← BitVec.ofNat_toNat, slice_toNat, Nat.pow_zero, Nat.div_one]

theorem signExtend_slice_zero {n : Nat} (hn : n ≤ 32) :
    (v.extractLsb' 0 n).signExtend 32 = BitVec.ofInt 32 (v.setWidth n).toInt := by
  rw [BitVec.signExtend, BitVec.setWidth_eq_extractLsb' hn]

end

/-! ## The shapes of the two families (R278) -/

section
variable {i : Instr} {w : Width} {rs1 : RegNum} {imm : Imm12} {a v : DWord} {s : State}
  (hm : mode s ≠ .user) (hp : portPresent (accessAddr w rs1 imm s) s = true) (ha : accessAddr w rs1 imm s = a)
include hm hp ha

/-- Above User level, where there is a device, an instruction of the input family makes its read and completes. -/
theorem next_of_portIn {x : Ext} {rd : RegNum} (hexec : exec i s = portIn w x rd rs1 imm s)
    (hv : extend x w (Config.portAnswer s.portTrace a w) = v) :
    ∃ t, exec i s = .next t ∧ Transacts (.read a w) rd v s t := by
  subst ha hv
  refine ⟨_, ?_, transacts_recordPort ..⟩
  rw [hexec, portIn, if_neg (mt (PrivMode.level_lt_one_iff _).1 hm), if_pos hp, portAnswer]

/-- Above User level, where there is a device, an instruction of the output family makes its write and completes. -/
theorem next_of_portOut {rs2 : RegNum} (hexec : exec i s = portOut w rs2 rs1 imm s)
    (hv : lowPart w (readReg rs2 s) = v) :
    ∃ t, exec i s = .next t ∧ Transacts (.write a w v) 0 0 s t := by
  subst ha hv
  refine ⟨_, ?_, transacts_recordPort ..⟩
  rw [hexec, portOut, if_neg (mt (PrivMode.level_lt_one_iff _).1 hm), if_pos hp, writeReg_zero]

end

/-! ## The statements -/

/-- Settles O39: the input family with each width and extension. -/
theorem portInput : Obligations.PortInput := fun _ rs1 imm s hm =>
  have hbyte := accessAddr_byte_eq_ofNat rs1 imm s
  have hword := accessAddr_word_eq_ofNat rs1 imm s
  have hdword := accessAddr_dword_eq_ofNat rs1 imm s
  ⟨fun hp => ⟨next_of_portIn hm hp hbyte (x := .zero) rfl (setWidth_slice_zero _ 8),
      next_of_portIn hm hp hbyte (x := .sign) rfl (signExtend_slice_zero _ (by decide))⟩,
    fun hp => ⟨next_of_portIn hm hp hword (x := .zero) rfl (setWidth_slice_zero _ 16),
      next_of_portIn hm hp hword (x := .sign) rfl (signExtend_slice_zero _ (by decide))⟩,
    fun hp => next_of_portIn hm hp hdword (x := .zero) rfl rfl⟩

/-- Settles O40: the output family with each width. -/
theorem portOutput : Obligations.PortOutput := fun _ _ _ _ hm =>
  ⟨fun hp => next_of_portOut hm hp (accessAddr_byte_eq_ofNat ..) rfl (setWidth_slice_zero _ 8),
    fun hp => next_of_portOut hm hp (accessAddr_word_eq_ofNat ..) rfl (setWidth_slice_zero _ 16),
    fun hp => next_of_portOut hm hp (accessAddr_dword_eq_ofNat ..) rfl rfl⟩

end Sys2Proof.Machine
end

section
/-! SUPPORT. The multiply and divide family (R340) completes with its operation's value; the halves of a product and the
quotients and remainders as numbers, and the statements about spec/48. -/

namespace Sys2Proof.Machine

/-! ## The shape of the family -/

/-- R340, R349: an instruction of the family completes with its operation's value; the shape is that of R120. -/
theorem completesWith_of_mulDiv {i : Instr} (f : DWord → DWord → DWord) {rd rs1 rs2 : RegNum} {v : DWord} {s : State}
    (h : exec i s = mulDiv f rd rs1 rs2 s) (hv : f (readReg rs1 s) (readReg rs2 s) = v) : CompletesWith i rd v s :=
  completesWith_of_aluReg f h hv

/-! ## The halves of a product (R341 to R344, R352) -/

/-- Bits 63:32 are the quotient by 2^32, whatever stands above bit 63. -/
theorem extractLsb'_high_ofNat (n : Nat) :
    (BitVec.ofNat 64 n).extractLsb' 32 32 = BitVec.ofNat 32 (n / 2 ^ 32) := by
  apply BitVec.eq_of_toNat_eq
  rw [BitVec.extractLsb'_toNat, Nat.shiftRight_eq_div_pow, BitVec.toNat_ofNat, BitVec.toNat_ofNat]
  omega

/-- In two's complement the quotient is the floor. -/
theorem extractLsb'_high_ofInt (z : Int) :
    (BitVec.ofInt 64 z).extractLsb' 32 32 = BitVec.ofInt 32 (z / 2 ^ 32) := by
  apply BitVec.eq_of_toNat_eq
  rw [BitVec.extractLsb'_toNat, Nat.shiftRight_eq_div_pow, BitVec.toNat_ofInt, BitVec.toNat_ofInt]
  omega

/-- A number of 64 bits is its high half above its low half. -/
theorem high_mul_add_low_of_lt {n : Nat} (h : n < 2 ^ 64) :
    (BitVec.ofNat 32 (n / 2 ^ 32)).toNat * 2 ^ 32 + (BitVec.ofNat 32 n).toNat = n := by
  rw [BitVec.toNat_ofNat, BitVec.toNat_ofNat]
  omega

/-- A signed number of 64 bits is its signed high half above its unsigned low half. -/
theorem signed_high_mul_add_low_of_lt {z : Int} (hlow : -2 ^ 63 ≤ z) (hhigh : z < 2 ^ 63) :
    (BitVec.ofInt 32 (z / 2 ^ 32)).toInt * 2 ^ 32 + (BitVec.ofInt 32 z).toNat = z := by
  rw [BitVec.toInt_ofInt_eq_self (by decide) (by omega) (by omega), BitVec.toNat_ofInt]
  omega

/-! ## Quotients and remainders (R345 to R348, R350, R351) -/

section
variable (a b : DWord)

/-- R350: the two operand pairs without a signed result, as numbers. -/
theorem signedDivOpen_iff : signedDivOpen a b = true ↔ b.toInt = 0 ∨ (a.toInt = -2 ^ 31 ∧ b.toInt = -1) := by
  simp only [signedDivOpen, Bool.or_eq_true, Bool.and_eq_true, beq_iff_eq, ← BitVec.toInt_inj]
  rfl

theorem divValue_eq : divValue a b =
    if b = 0 then Config.divResult .div a 0 else BitVec.ofNat 32 (a.toNat / b.toNat) :=
  ite_congr rfl (fun hb => by rw [hb]) fun _ => rfl

theorem modValue_eq : modValue a b =
    if b = 0 then Config.divResult .mod a 0 else BitVec.ofNat 32 (a.toNat % b.toNat) :=
  ite_congr rfl (fun hb => by rw [hb]) fun _ => rfl

theorem sdivValue_eq : sdivValue a b =
    if b.toInt = 0 ∨ (a.toInt = -2 ^ 31 ∧ b.toInt = -1) then Config.divResult .sdiv a b
    else BitVec.ofInt 32 (a.toInt.tdiv b.toInt) := by
  simp only [sdivValue, signedDivOpen_iff]

/-- What is left of the dividend is the remainder of the truncated division. -/
theorem smodValue_eq : smodValue a b =
    if b.toInt = 0 ∨ (a.toInt = -2 ^ 31 ∧ b.toInt = -1) then Config.divResult .smod a b
    else BitVec.ofInt 32 (a.toInt.tmod b.toInt) := by
  simp only [smodValue, signedDivOpen_iff, Int.tmod_def, Int.mul_comm]

/-- The truncated quotient fits a dword but for the least number by -1. -/
theorem toInt_ofInt_tdiv (h : ¬(a.toInt = -2 ^ 31 ∧ b.toInt = -1)) :
    (BitVec.ofInt 32 (a.toInt.tdiv b.toInt)).toInt = a.toInt.tdiv b.toInt := by
  have hne : a ≠ BitVec.intMin 32 ∨ b ≠ -1#32 := by
    rw [← not_and_or]
    rintro ⟨rfl, rfl⟩
    exact h ⟨rfl, rfl⟩
  rw [BitVec.toInt_ofInt, ← BitVec.toInt_sdiv, BitVec.toInt_sdiv_of_ne_or_ne a b hne]

theorem toInt_ofInt_tmod : (BitVec.ofInt 32 (a.toInt.tmod b.toInt)).toInt = a.toInt.tmod b.toInt := by
  rw [← BitVec.toInt_srem, BitVec.ofInt_toInt]

theorem toNat_ofNat_div : (BitVec.ofNat 32 (a.toNat / b.toNat)).toNat = a.toNat / b.toNat := by
  rw [BitVec.toNat_ofNat, Nat.mod_eq_of_lt ((Nat.div_le_self ..).trans_lt a.isLt)]

theorem toNat_ofNat_mod : (BitVec.ofNat 32 (a.toNat % b.toNat)).toNat = a.toNat % b.toNat := by
  rw [BitVec.toNat_ofNat, Nat.mod_eq_of_lt ((Nat.mod_le ..).trans_lt a.isLt)]

end

/-- The remainder of a truncated division is 0 or has the sign of the dividend. -/
theorem tmod_mul_self_nonneg (x y : Int) : 0 ≤ x.tmod y * x := by
  rcases Int.le_total 0 x with hx | hx
  · exact mul_nonneg (Int.tmod_nonneg y hx) hx
  · have hneg : 0 ≤ (-x).tmod y := Int.tmod_nonneg y (by omega)
    rw [Int.neg_tmod] at hneg
    exact mul_nonneg_of_nonpos_of_nonpos (by omega) hx

/-! ## The statements -/

/-- Settles O42: the family with each half of the two products. -/
theorem products : Obligations.Products := fun _ _ _ _ =>
  ⟨completesWith_of_mulDiv mulLow rfl rfl, completesWith_of_mulDiv smulLow rfl rfl,
    completesWith_of_mulDiv mulHigh rfl (extractLsb'_high_ofNat _),
    completesWith_of_mulDiv smulHigh rfl (extractLsb'_high_ofInt _)⟩

/-- Settles O43: the four results are read back, and each product of two dwords has 64 bits. -/
theorem exactProducts : Obligations.ExactProducts := by
  intro rd rs1 rs2 s hrd
  obtain ⟨⟨t2, hmul, hlow⟩, ⟨t4, hsmul, hslow⟩, ⟨t1, hmulh, hhigh⟩, t3, hsmulh, hshigh⟩ := products rd rs1 rs2 s
  refine ⟨t1, t2, t3, t4, hmulh, hmul, hsmulh, hsmul, ?_, ?_⟩
  · rw [hhigh.readReg_dest hrd, hlow.readReg_dest hrd]
    exact high_mul_add_low_of_lt BitVec.toNat_mul_toNat_lt
  · rw [hshigh.readReg_dest hrd, hslow.readReg_dest hrd]
    exact signed_high_mul_add_low_of_lt (le_trans (by decide) BitVec.le_toInt_mul_toInt)
      (lt_of_le_of_lt BitVec.toInt_mul_toInt_le (by decide))

/-- Settles O44: the family with each quotient and remainder, the open operands told by their numbers. -/
theorem division : Obligations.Division := fun _ _ _ _ =>
  ⟨completesWith_of_mulDiv divValue rfl (divValue_eq ..), completesWith_of_mulDiv modValue rfl (modValue_eq ..),
    completesWith_of_mulDiv sdivValue rfl (sdivValue_eq ..), completesWith_of_mulDiv smodValue rfl (smodValue_eq ..)⟩

/-- Settles O45: the four results are read back where they are defined and fit a dword, which leaves the laws of floored
and of truncated division. -/
theorem divisionLaw : Obligations.DivisionLaw := by
  intro rd rs1 rs2 s hrd hb
  obtain ⟨⟨t1, hdiv, hquot⟩, ⟨t2, hmod, hrem⟩, ⟨t3, hsdiv, hsquot⟩, t4, hsmod, hsrem⟩ := division rd rs1 rs2 s
  refine ⟨t1, t2, t3, t4, hdiv, hmod, hsdiv, hsmod, ?_, ?_, fun hfits => ?_⟩
  · rw [hquot.readReg_dest hrd, hrem.readReg_dest hrd, if_neg hb, if_neg hb, toNat_ofNat_div, toNat_ofNat_mod]
    exact Nat.div_add_mod' ..
  · rw [hrem.readReg_dest hrd, if_neg hb, toNat_ofNat_mod]
    exact Nat.mod_lt _ (Nat.pos_of_ne_zero fun h => hb (BitVec.eq_of_toNat_eq h))
  · have hb' : (readReg rs2 s).toInt ≠ 0 := fun h => hb (BitVec.toInt_inj.1 h)
    have hdefined := not_or.2 ⟨hb', hfits⟩
    rw [hsquot.readReg_dest hrd, hsrem.readReg_dest hrd, if_neg hdefined, if_neg hdefined, toInt_ofInt_tdiv _ _ hfits,
      toInt_ofInt_tmod]
    refine ⟨Int.tdiv_mul_add_tmod .., ?_, tmod_mul_self_nonneg ..⟩
    rw [Int.natAbs_tmod]
    exact Nat.mod_lt _ (Int.natAbs_pos.2 hb')

end Sys2Proof.Machine
end

section
/-! SUPPORT. What a step can do to the CSRs, said once for all levels (R402, R403, R420), and the statements about the
confinement of User and Kernel level that follow from it. -/

namespace Sys2Proof.Machine

/-! ## A CSR write below Machine level (R31, R32, R265) -/

/-- Every CSR that has a state belongs to Machine or to Kernel level. -/
theorem toNat_lt_of_mem_definedCsrs : ∀ k ∈ definedCsrs, k.toNat < 3072 := by
  simp [definedCsrs]

section
variable {k : CsrNum} {s : State}

/-- User level is permitted no number that has a state. -/
theorem not_mem_definedCsrs_of_user (hm : mode s = .user) (ha : csrAllowed k s = true) : k ∉ definedCsrs := by
  intro hk
  have hlt := toNat_lt_of_mem_definedCsrs k hk
  rw [csrAllowed_iff, hm] at ha
  simp only [PrivMode.level] at ha
  omega

/-- At User level a CSR write only advances IP. -/
theorem writeCsr_of_user (k : CsrNum) (v : DWord) (hm : mode s = .user) : writeCsr k v s = .next (advance s) := by
  cases ha : csrAllowed k s with
  | false => rw [writeCsr, if_neg (ne_true_of_eq_false ha)]
  | true =>
    have hk := not_mem_definedCsrs_of_user hm ha
    have hzero : k = 0 → v.toNat / 2 % 4 ≠ 2 := fun h => absurd (h ▸ List.mem_cons_self) hk
    rw [writeCsr, if_pos ha, writesReservedMode_eq_false hzero, setCsr_of_not_defined v s hk]
    rfl

/-- Only Machine level reaches the numbers below 1024. -/
theorem mode_eq_machine_of_csrAllowed (ha : csrAllowed k s = true) (hk : k.toNat < 1024) : mode s = .machine := by
  rw [csrAllowed_iff] at ha
  cases hm : mode s with
  | machine => rfl
  | user | kernel | reserved =>
    rw [hm] at ha
    simp only [PrivMode.level] at ha
    omega

/-- A write to a number of Kernel or User level leaves the CSRs of Machine level alone. -/
theorem setCsr_sameMachine (v : DWord) (hk : 1024 ≤ k.toNat) :
    (setCsr k v s).mstatus = s.mstatus ∧ SameMachineCsrs s (setCsr k v s) := by
  have hother : ∀ j ∈ definedCsrs, j.toNat < 1024 → csrStored j (setCsr k v s) = csrStored j s := by
    intro j hj hlt
    refine csrStored_setCsr_other v s hj ?_
    rintro rfl
    omega
  exact ⟨hother 0 (by decide) (by decide), hother 1 (by decide) (by decide), hother 2 (by decide) (by decide),
    hother 3 (by decide) (by decide), hother 4 (by decide) (by decide)⟩

/-- A CSR write below Machine level leaves the CSRs of Machine level alone. -/
theorem writeCsr_sameMachine {v : DWord} {t : State} (hm : mode s ≠ .machine) (h : writeCsr k v s = .next t) :
    t.mstatus = s.mstatus ∧ SameMachineCsrs s t := by
  rcases writeCsr_next h with ⟨-, rfl⟩ | ⟨ha, -, rfl⟩
  · exact ⟨rfl, rfl, rfl, rfl, rfl⟩
  · exact setCsr_sameMachine v (Nat.le_of_not_lt fun hk => hm (mode_eq_machine_of_csrAllowed ha hk))

end

/-! ## What a step does to the CSRs -/

theorem SameCsrs.sameStatusButMode {s t : State} (h : SameCsrs s t) : SameStatusButMode s t := by
  obtain ⟨hstatus, -⟩ := h
  intro k _ _
  rw [hstatus]

theorem SameCsrs.mode_eq {s t : State} (h : SameCsrs s t) : mode t = mode s := mode_congr h.1

/-- The five ways from `s` to `t`: a trap, either return, a CSR write, or no CSR changed. -/
inductive CsrAction (s t : State) : Prop where
  | trap {cause ra : DWord} (h : trapEnter cause ra s = .next t)
  | mret (hm : mode s = .machine) (h : exec .mret s = .next t)
  | sysret (hm : mode s ≠ .user) (h : exec .sysret s = .next t)
  | write {k : CsrNum} {v : DWord} (h : writeCsr k v s = .next t)
  | keep (h : SameCsrs s t)

theorem exec_csrAction {i : Instr} {s t : State} (h : exec i s = .next t) : CsrAction s t := by
  rcases exec_next h with ⟨rd, v, target, -, -, -, rfl⟩ | ⟨w, rs2, rs1, imm, hstore, -⟩ | ⟨imm, -, htrap⟩ |
    ⟨rfl, hm, -⟩ | ⟨rfl, hm, -⟩ | ⟨k, v, -, -, hwrite⟩ | ⟨rd, k, v, rfl, -⟩ | ⟨p, rd, v, -, -, -, -, rfl⟩
  · exact .keep (sameCsrs_writeReg rd v target s)
  · obtain ⟨rs2, hexec⟩ := exec_eq_store hstore
    obtain ⟨-, rfl⟩ := store_next ((hexec s).symm.trans h)
    exact .keep (sameCsrs_refl s)
  · exact .trap htrap
  · exact .mret hm h
  · exact .sysret (fun hu => by simp [hu, PrivMode.level] at hm) h
  · exact .write hwrite
  · exact .keep (exec_sameCsrs h rfl)
  · exact .keep (sameCsrs_writeReg rd v _ (recordPort p s))

/-- R12: a step is a boundary, which leaves all but the pending and coming requests alone, and then a trap or an
instruction. -/
theorem step_next_afterBoundary {s t : State} (h : step s = .next t) :
    ∃ q, (∃ cause ra, trapEnter cause ra (afterBoundary q s) = .next t) ∨
      ∃ i, exec i (afterBoundary q s) = .next t := by
  obtain ⟨q, hq⟩ := boundary_fst s
  refine ⟨q, ?_⟩
  rcases step_next h with ⟨u, c, hb, htrap⟩ | ⟨u, hb, hrun⟩ <;> rw [hb] at hq <;> subst hq
  · exact .inl ⟨c, _, htrap⟩
  · obtain ⟨_, i, -, -, -, hexec⟩ := runInstruction_next hrun
    exact .inr ⟨i, hexec⟩

theorem step_csrAction {s t : State} (h : step s = .next t) : ∃ q, CsrAction (afterBoundary q s) t := by
  obtain ⟨q, ⟨_, _, htrap⟩ | ⟨_, hexec⟩⟩ := step_next_afterBoundary h
  · exact ⟨q, .trap htrap⟩
  · exact ⟨q, exec_csrAction hexec⟩

/-- R420: SYSRET goes to `kra`, at the level bits 1:0 of `kpriv` name, and nothing else changes. -/
theorem sysret_next {s t : State} (hm : mode s ≠ .user) (h : exec .sysret s = .next t) :
    ReturnsTo s.kra (savedMode s.kpriv) s t := by
  rw [exec_sysret_of_not_user hm] at h
  obtain ⟨-, rfl⟩ := trapReturn_next h
  exact returnsTo_setMode ..

/-! ## The port space (R46, R278) -/

/-- A port instruction at User level does not complete, so no port changes. -/
theorem exec_portTrace_of_user {i : Instr} {s t : State} (hm : mode s = .user) (h : exec i s = .next t) :
    t.portTrace = s.portTrace := by
  refine exec_portTrace h (Option.not_isSome_iff_eq_none.1 fun hport => ?_)
  have hfault : exec i s = .fault .privilegeViolation := (privilegeViolations i s).1 hm hport
  rw [hfault] at h
  cases h

theorem step_portTrace_of_user {s t : State} (hm : mode s = .user) (h : step s = .next t) :
    t.portTrace = s.portTrace := by
  obtain ⟨q, ⟨_, _, htrap⟩ | ⟨_, hexec⟩⟩ := step_next_afterBoundary h
  · exact (trapEnter_onlyCsrsAndIp htrap).portTrace
  · exact exec_portTrace_of_user (s := afterBoundary q s) hm hexec

/-! ## Confinement of each level (R402, R403) -/

/-- From User level the CSRs change by a trap into the Kernel handler, or not at all. -/
theorem CsrAction.of_user {s t : State} (hm : mode s = .user) (h : CsrAction s t) :
    (∃ cause ra, EntersKernel cause ra s t) ∨ SameCsrs s t := by
  cases h with
  | trap h =>
    rw [trapEnter_of_user _ _ hm] at h
    cases h
    exact .inl ⟨_, _, entersKernel_enterFromUser ..⟩
  | mret hmachine => simp [hm] at hmachine
  | sysret habove => exact absurd hm habove
  | write h =>
    rw [writeCsr_of_user _ _ hm] at h
    cases h
    exact .inr (sameCsrs_refl s)
  | keep h => exact .inr h

/-- From Kernel level there are the trap into the Machine handler and SYSRET; all else leaves the CSRs of Machine level
alone. -/
theorem CsrAction.of_kernel {s t : State} (hm : mode s = .kernel) (h : CsrAction s t) :
    (∃ cause ra, EntersMachine cause ra 1 s t) ∨ ReturnsTo s.kra (savedMode s.kpriv) s t ∨
    (t.mstatus = s.mstatus ∧ SameMachineCsrs s t) := by
  cases h with
  | trap h =>
    rw [trapEnter_of_kernel _ _ hm] at h
    cases h
    exact .inl ⟨_, _, entersMachine_enterFromKernel ..⟩
  | mret hmachine => simp [hm] at hmachine
  | sysret habove h => exact .inr (.inl (sysret_next habove h))
  | write h => exact .inr (.inr (writeCsr_sameMachine (by simp [hm]) h))
  | keep h =>
    obtain ⟨hstatus, hmachine, -⟩ := h
    exact .inr (.inr ⟨hstatus, hmachine⟩)

/-- Settles O51, by the two ways the CSRs can go from User level. -/
theorem userStepIsConfined : Obligations.UserStepIsConfined := by
  intro s t hm h
  have hport := step_portTrace_of_user hm h
  obtain ⟨q, haction⟩ := step_csrAction h
  rcases haction.of_user (s := afterBoundary q s) hm with
    ⟨cause, ra, -, -, hkpriv, hpc, hmode, hkstatus, hkiva, hstatus, hmachine, -⟩ | hsame
  · exact ⟨hmachine, hstatus, hkiva, hkstatus, hport, .inl ⟨hmode, hpc, hkpriv⟩⟩
  · have ⟨_, hmachine, hkstatus, hkiva, _⟩ := hsame
    exact ⟨hmachine, hsame.sameStatusButMode, hkiva, hkstatus, hport, .inr hsame⟩

/-- Settles O52, by the three ways the CSRs can go from Kernel level. -/
theorem kernelStepIsConfined : Obligations.KernelStepIsConfined := by
  intro s t hm h
  obtain ⟨q, haction⟩ := step_csrAction h
  rcases haction.of_kernel (s := afterBoundary q s) hm with ⟨cause, ra, -, -, hmpriv, hpc, hmode, hmiva, hstatus, -⟩ |
    ⟨hpc, hmode, hstatus, hmachine, hkernel, -⟩ | ⟨hmstatus, hmachine⟩
  · exact ⟨hmiva, hstatus, .inl ⟨hmode, hpc, hmpriv⟩⟩
  · exact ⟨hmachine.1, hstatus, .inr ⟨hmachine, .inr ⟨hmode ▸ savedMode_level s.kpriv, hpc, hkernel⟩⟩⟩
  · exact ⟨hmachine.1, fun k _ _ => by rw [hmstatus, afterBoundary_mstatus],
      .inr ⟨hmachine, .inl ((mode_congr hmstatus).trans hm)⟩⟩

/-- Settles O50: nothing is above Machine level, and from the two below it a step can rise only as O51 and O52 say. -/
theorem privilegeRisesOnlyByTrapOrSysret : Obligations.PrivilegeRisesOnlyByTrapOrSysret := by
  intro s t hlegal h hrise
  cases hm : mode s with
  | user =>
    obtain ⟨-, -, -, -, -, ⟨hmode, hpc, hkpriv⟩ | hsame⟩ := userStepIsConfined s t hm h
    · exact .inl ⟨rfl, hmode, hpc, hkpriv⟩
    · simp [hsame.mode_eq] at hrise
  | kernel =>
    obtain ⟨-, -, ⟨hmode, hpc, hmpriv⟩ | ⟨-, hmode | ⟨hlevel, hpc, -, -, -, -, hkpriv⟩⟩⟩ :=
      kernelStepIsConfined s t hm h
    · exact .inr (.inl ⟨rfl, hmode, hpc, hmpriv⟩)
    · simp [hmode, hm] at hrise
    · exact .inr (.inr ⟨rfl, hlevel.symm, hpc, hkpriv⟩)
  | reserved => exact absurd hm hlegal
  | machine =>
    have htop : (mode t).level ≤ PrivMode.level .machine := by cases mode t <;> decide
    rw [hm] at hrise
    exact absurd hrise (Nat.not_lt.2 htop)

end Sys2Proof.Machine
end

section
/-! SUPPORT. Two runs of User code that agree on what User code may use (R32, R265, R400): each shared operation keeps
them in agreement, and with them each instruction. -/

namespace Sys2Proof.Machine

/-- R43: a permitted read of a number with no state gives the free value. -/
theorem csrValue_of_not_defined {k : CsrNum} (s : State) (hk : k ∉ definedCsrs) : csrValue k s = reservedRead k s := by
  have hne : ∀ d ∈ definedCsrs, k.toNat ≠ d.toNat := fun d hd h => hk (BitVec.eq_of_toNat_eq h ▸ hd)
  simp_all [definedCsrs, csrValue]

/-! ## What the two states give alike, and the updates that keep them alike -/

section
variable {s1 s2 : State} (h : SameUserView s1 s2)
include h

theorem SameUserView.readReg_eq (r : RegNum) : readReg r s2 = readReg r s1 := by
  obtain ⟨hregs, -⟩ := h
  exact hregs r

theorem SameUserView.pc_eq : s2.pc = s1.pc := by
  obtain ⟨-, hpc, -⟩ := h
  exact hpc

theorem SameUserView.mem_eq : s2.mem = s1.mem := by
  obtain ⟨-, -, hmem, -⟩ := h
  exact hmem

theorem SameUserView.freeDraws_eq : s2.freeDraws = s1.freeDraws := by
  obtain ⟨-, -, -, -, -, -, hdraws, -⟩ := h
  exact hdraws

theorem SameUserView.platform_eq : s2.platform = s1.platform := by
  obtain ⟨-, -, -, -, -, -, -, -, -, hplatform⟩ := h
  exact hplatform

theorem SameUserView.accessAddr_eq (w : Width) (rs1 : RegNum) (imm : Imm12) :
    accessAddr w rs1 imm s2 = accessAddr w rs1 imm s1 := by
  rw [accessAddr, accessAddr, effAddr, effAddr, h.readReg_eq]

theorem SameUserView.setPc (target : DWord) : SameUserView (setPc target s1) (setPc target s2) := by
  obtain ⟨hregs, -, hrest⟩ := h
  exact ⟨hregs, rfl, hrest⟩

theorem SameUserView.advance : SameUserView (advance s1) (advance s2) := by
  rw [Machine.advance, Machine.advance, h.pc_eq]
  exact h.setPc _

theorem SameUserView.writeReg (rd : RegNum) (v : DWord) : SameUserView (writeReg rd v s1) (writeReg rd v s2) := by
  obtain ⟨hregs, hrest⟩ := h
  refine ⟨fun r => ?_, by simpa [SameOutside, SameIrqs] using hrest⟩
  by_cases hr : r = rd
  · rw [hr, readReg_writeReg_same, readReg_writeReg_same]
  · rw [readReg_writeReg_other v s2 hr, readReg_writeReg_other v s1 hr, hregs]

theorem SameUserView.countDraw : SameUserView (countDraw s1) (countDraw s2) := by
  obtain ⟨hregs, hpc, hmem, hstored, hkiva, hport, hdraws, hirqs⟩ := h
  exact ⟨hregs, hpc, hmem, hstored, hkiva, hport, congrArg (· + 1) hdraws, hirqs⟩

/-- The trap entry from User level writes only CSRs that User code may not read, and goes to `kiva`. -/
theorem SameUserView.enterFromUser (cause ra : DWord) :
    SameUserView (enterFromUser cause ra s1) (enterFromUser cause ra s2) := by
  obtain ⟨hregs, -, hmem, hstored, hkiva, hout⟩ := h
  exact ⟨hregs, hkiva, hmem, hstored, hkiva, hout⟩

/-- R267: what User code reads from a CSR is 0, or a free value of the number and the count of reads. -/
theorem SameUserView.csrReadValue_eq (hm1 : mode s1 = .user) (hm2 : mode s2 = .user) (k : CsrNum) :
    csrReadValue k s2 = csrReadValue k s1 := by
  have hallowed : csrAllowed k s2 = csrAllowed k s1 := by rw [csrAllowed, csrAllowed, hm1, hm2]
  cases ha : csrAllowed k s1 with
  | false => rw [csrReadValue_of_refused s1 ha, csrReadValue_of_refused s2 (hallowed.trans ha)]
  | true =>
    have hk := not_mem_definedCsrs_of_user hm1 ha
    rw [csrReadValue_of_allowed s1 ha, csrReadValue_of_allowed s2 (hallowed.trans ha),
      csrValue_of_not_defined s1 hk, csrValue_of_not_defined s2 hk, reservedRead, reservedRead, h.freeDraws_eq]

end

/-! ## The shared operations keep the agreement -/

/-- From two User states that agree, the operation completes in the second as it does in the first, and its next states
agree. -/
def KeepsUserView (op : State → Result) : Prop :=
  ∀ s1 s2 t1 : State, mode s1 = .user → mode s2 = .user → SameUserView s1 s2 → op s1 = .next t1 →
    ∃ t2, op s2 = .next t2 ∧ SameUserView t1 t2

theorem KeepsUserView.of_exec {i : Instr} {op : State → Result} (hop : KeepsUserView op) (h : ∀ s, exec i s = op s) :
    KeepsUserView (exec i) := by
  rwa [funext h]

theorem aluReg_keepsUserView (f : DWord → DWord → DWord) (rd rs1 rs2 : RegNum) :
    KeepsUserView (aluReg f rd rs1 rs2) := by
  rintro s1 s2 _ - - h ⟨⟩
  refine ⟨_, rfl, ?_⟩
  rw [h.readReg_eq, h.readReg_eq]
  exact (h.writeReg rd _).advance

theorem mulDiv_keepsUserView (f : DWord → DWord → DWord) (rd rs1 rs2 : RegNum) :
    KeepsUserView (mulDiv f rd rs1 rs2) := aluReg_keepsUserView f rd rs1 rs2

theorem aluImm_keepsUserView (f : DWord → DWord → DWord) (rd rs1 : RegNum) (imm : Imm12) :
    KeepsUserView (aluImm f rd rs1 imm) := by
  rintro s1 s2 _ - - h ⟨⟩
  refine ⟨_, rfl, ?_⟩
  rw [h.readReg_eq]
  exact (h.writeReg rd _).advance

theorem execLui_keepsUserView (rd : RegNum) (imm : Imm21) : KeepsUserView (execLui rd imm) := by
  rintro s1 s2 _ - - h ⟨⟩
  exact ⟨_, rfl, (h.writeReg rd _).advance⟩

theorem execJal_keepsUserView (rd : RegNum) (imm : Imm21) : KeepsUserView (execJal rd imm) := by
  rintro s1 s2 _ - - h ⟨⟩
  refine ⟨_, rfl, ?_⟩
  rw [h.pc_eq]
  exact (h.writeReg rd _).setPc _

theorem execJalr_keepsUserView (rd rs1 : RegNum) (imm : Imm12) : KeepsUserView (execJalr rd rs1 imm) := by
  rintro s1 s2 _ - - h ⟨⟩
  refine ⟨_, rfl, ?_⟩
  rw [h.pc_eq, h.readReg_eq]
  exact (h.writeReg rd _).setPc _

theorem condJump_keepsUserView (cond : DWord → DWord → Bool) (rs1 rs2 : RegNum) (imm : Imm12) :
    KeepsUserView (condJump cond rs1 rs2 imm) := by
  intro s1 s2 t1 _ _ h hnext
  unfold condJump at hnext ⊢
  rw [h.readReg_eq, h.readReg_eq, h.pc_eq]
  split at hnext <;> cases hnext
  · exact ⟨_, if_pos ‹_›, h.setPc _⟩
  · exact ⟨_, if_neg ‹_›, h.advance⟩

theorem load_keepsUserView (w : Width) (x : Ext) (rd rs1 : RegNum) (imm : Imm12) :
    KeepsUserView (load w x rd rs1 imm) := by
  intro s1 s2 t1 _ _ h hnext
  obtain ⟨hmapped, rfl⟩ := load_next hnext
  rw [← mapped_congr h.platform_eq, ← h.accessAddr_eq] at hmapped
  refine ⟨_, load_of_mapped x rd hmapped, ?_⟩
  rw [h.mem_eq, h.accessAddr_eq]
  exact (h.writeReg rd _).advance

theorem store_keepsUserView (w : Width) (rs2 rs1 : RegNum) (imm : Imm12) : KeepsUserView (store w rs2 rs1 imm) := by
  intro s1 s2 t1 _ _ h hnext
  obtain ⟨hwritable, rfl⟩ := store_next hnext
  rw [← writable_congr h.platform_eq, ← h.accessAddr_eq] at hwritable
  refine ⟨_, store_of_writable rs2 hwritable, ?_⟩
  rw [h.accessAddr_eq, h.readReg_eq]
  obtain ⟨hregs, hpc, hmem, hstored, hrest⟩ := h
  rw [hmem, hstored]
  exact SameUserView.advance ⟨hregs, hpc, rfl, rfl, hrest⟩

theorem execInt_keepsUserView (imm : Imm21) : KeepsUserView (execInt imm) := by
  intro s1 s2 t1 hm1 hm2 h hnext
  rw [execInt, trapEnter_of_user _ _ hm1] at hnext
  cases hnext
  refine ⟨_, trapEnter_of_user _ _ hm2, ?_⟩
  rw [h.pc_eq, h.platform_eq]
  exact h.enterFromUser _ _

theorem execCsrr_keepsUserView (rd : RegNum) (k : CsrNum) : KeepsUserView (execCsrr rd k) := by
  intro s1 s2 t1 hm1 hm2 h hnext
  cases (exec_csrr s1 rd k).symm.trans hnext
  refine ⟨_, exec_csrr s2 rd k, ?_⟩
  rw [h.csrReadValue_eq hm1 hm2, h.pc_eq]
  exact (h.countDraw.writeReg rd _).setPc _

/-- An operation that at User level only advances IP. -/
theorem keepsUserView_of_advance {op : State → Result} (hop : ∀ s, mode s = .user → op s = .next (advance s)) :
    KeepsUserView op := by
  intro s1 s2 t1 hm1 hm2 h hnext
  cases (hop s1 hm1).symm.trans hnext
  exact ⟨_, hop s2 hm2, h.advance⟩

/-- An operation that does not complete at User level. -/
theorem keepsUserView_of_fault {op : State → Result} {f : Fault} (hop : ∀ s, mode s = .user → op s = .fault f) :
    KeepsUserView op := by
  intro s1 _ _ hm1 _ _ hnext
  cases (hop s1 hm1).symm.trans hnext

theorem execCsrs_of_user (k : CsrNum) (pos : BitPos) {s : State} (hm : mode s = .user) :
    execCsrs k pos s = .next (advance s) := by
  rw [execCsrs, writeCsr_of_user _ _ hm, ite_self]

theorem execCsrc_of_user (k : CsrNum) (pos : BitPos) {s : State} (hm : mode s = .user) :
    execCsrc k pos s = .next (advance s) := by
  rw [execCsrc, writeCsr_of_user _ _ hm, ite_self]

/-- Settles O53, family by family. -/
theorem userCannotReadSystemState : Obligations.UserCannotReadSystemState := by
  suffices hkeeps : ∀ i, KeepsUserView (exec i) from fun i => hkeeps i
  intro i
  cases i with
  | add rd rs1 rs2 | sub rd rs1 rs2 | and rd rs1 rs2 | or rd rs1 rs2 | xor rd rs1 rs2
  | shr rd rs1 rs2 | asr rd rs1 rs2 | shl rd rs1 rs2 | cch rd rs1 rs2 | bch rd rs1 rs2 =>
    exact (aluReg_keepsUserView _ rd rs1 rs2).of_exec fun _ => by unfold exec; rfl
  | mul rd rs1 rs2 | smul rd rs1 rs2 | mulh rd rs1 rs2 | smulh rd rs1 rs2
  | div rd rs1 rs2 | sdiv rd rs1 rs2 | mod rd rs1 rs2 | smod rd rs1 rs2 =>
    exact (mulDiv_keepsUserView _ rd rs1 rs2).of_exec fun _ => by unfold exec; rfl
  | addi rd rs1 imm | andi rd rs1 imm | ori rd rs1 imm | xori rd rs1 imm
  | shri rd rs1 imm | asri rd rs1 imm | shli rd rs1 imm | cchi rd rs1 imm | bchi rd rs1 imm =>
    exact (aluImm_keepsUserView _ rd rs1 imm).of_exec fun _ => by unfold exec; rfl
  | lui rd imm => exact execLui_keepsUserView rd imm
  | stb rs2 rs1 imm | stw rs2 rs1 imm | std rs2 rs1 imm =>
    exact (store_keepsUserView _ rs2 rs1 imm).of_exec fun _ => by unfold exec; rfl
  | ldb rd rs1 imm | ldw rd rs1 imm | ldd rd rs1 imm | ldsb rd rs1 imm | ldsw rd rs1 imm =>
    exact (load_keepsUserView _ _ rd rs1 imm).of_exec fun _ => by unfold exec; rfl
  | stq | ldq | ldsd => exact keepsUserView_of_fault fun _ _ => rfl
  | jal rd imm => exact execJal_keepsUserView rd imm
  | jalr rd rs1 imm => exact execJalr_keepsUserView rd rs1 imm
  | jeq rs1 rs2 imm | jlt rs1 rs2 imm | jslt rs1 rs2 imm
  | jne rs1 rs2 imm | jge rs1 rs2 imm | jsge rs1 rs2 imm =>
    exact (condJump_keepsUserView _ rs1 rs2 imm).of_exec fun _ => by unfold exec; rfl
  | int imm => exact execInt_keepsUserView imm
  | sysret => exact keepsUserView_of_fault fun _ => exec_sysret_of_user
  | mret => exact keepsUserView_of_fault fun _ hm => exec_mret_of_not_machine (by simp [hm])
  | csrw => exact keepsUserView_of_advance fun _ => writeCsr_of_user _ _
  | csrr rd k => exact execCsrr_keepsUserView rd k
  | csrs k pos => exact keepsUserView_of_advance fun _ => execCsrs_of_user k pos
  | csrc k pos => exact keepsUserView_of_advance fun _ => execCsrc_of_user k pos
  | inb | inw | ind | insb | insw => exact keepsUserView_of_fault fun _ hm => portIn_of_user hm ..
  | outb | outw | outd => exact keepsUserView_of_fault fun _ hm => portOut_of_user hm ..

end Sys2Proof.Machine
end

section
/-! SUPPORT. Traps and the mode: the return that undoes an INT (R420 to R422), CSR writes and the reserved level (R401),
external interrupts taken and masked (R415), and the statements about them (spec/45, spec/60). -/

namespace Sys2Proof.Machine

/-! ## The mode field by its two bits (R33) -/

theorem modeField_eq_iff (v : DWord) (m : PrivMode) :
    modeField v = m ↔ v.getLsbD 1 = m.toBits.getLsbD 0 ∧ v.getLsbD 2 = m.toBits.getLsbD 1 := by
  constructor
  · rintro rfl
    simp [modeField, PrivMode.toBits_ofBits]
  · rintro ⟨h1, h2⟩
    have hbits : v.extractLsb' 1 2 = m.toBits := by
      apply BitVec.eq_of_getLsbD_eq
      intro i hi
      rw [BitVec.getLsbD_extractLsb', decide_eq_true hi, Bool.true_and]
      interval_cases i
      · exact h1
      · exact h2
    rw [modeField, hbits, PrivMode.ofBits_toBits]

/-- The mode field and the bits beside it are all of `mstatus`. -/
theorem mstatus_eq_of_mode_eq {s t : State} (hmode : mode t = mode s) (hstatus : SameStatusButMode s t) :
    t.mstatus = s.mstatus := by
  obtain ⟨ht1, ht2⟩ := (modeField_eq_iff t.mstatus (mode t)).1 rfl
  obtain ⟨hs1, hs2⟩ := (modeField_eq_iff s.mstatus (mode s)).1 rfl
  apply BitVec.eq_of_getLsbD_eq
  intro k _
  by_cases h1 : k = 1
  · rw [h1, ht1, hs1, hmode]
  · by_cases h2 : k = 2
    · rw [h2, ht2, hs2, hmode]
    · exact hstatus k h1 h2

/-! ## The return that undoes an INT (R420 to R422) -/

section
variable {s t u : State}

theorem SameStatusButMode.trans (h : SameStatusButMode s t) (h' : SameStatusButMode t u) : SameStatusButMode s u :=
  fun k h1 h2 => (h' k h1 h2).trans (h k h1 h2)

theorem SameMachineCsrs.trans (h : SameMachineCsrs s t) (h' : SameMachineCsrs t u) : SameMachineCsrs s u := by
  unfold SameMachineCsrs at *
  simp only [h', h, and_self]

theorem SameKernelCsrs.trans (h : SameKernelCsrs s t) (h' : SameKernelCsrs t u) : SameKernelCsrs s u := by
  unfold SameKernelCsrs at *
  simp only [h', h, and_self]

theorem SameRegsBut.trans {rds : List RegNum} (h : SameRegsBut rds s t) (h' : SameRegsBut rds t u) :
    SameRegsBut rds s u :=
  fun r hr => (h' r hr).trans (h r hr)

/-- The Kernel handler's SYSRET finds 0, User level, in `kpriv`, and the interrupted IP in `kra`. -/
theorem sysret_undoes_entersKernel {cause ra : DWord} (hm : mode s = .user) (h : EntersKernel cause ra s t) :
    ∃ u, exec .sysret t = .next u ∧ u.pc = ra ∧ u.mstatus = s.mstatus ∧ SameMachineCsrs s u ∧ u.kstatus = s.kstatus ∧
      u.kiva = s.kiva ∧ SameRegsBut [] s u ∧ SameMem s u ∧ SameOutside s u := by
  obtain ⟨hkra, -, hkpriv, -, hmode, hkstatus, hkiva, hstatus, hmachine, hregs, hmem, hout⟩ := h
  have habove : mode t ≠ .user := by simp [hmode]
  obtain ⟨u, hu, hpc, hmode', hstatus', hmachine', ⟨hkstatus', hkiva', -⟩, hregs', hmem', hout'⟩ :=
    (systemReturn t habove).1 .user nofun (by simp [hkpriv, PrivMode.level])
  exact ⟨u, hu, hpc.trans hkra, mstatus_eq_of_mode_eq (hmode'.trans hm.symm) (hstatus.trans hstatus'),
    hmachine.trans hmachine', hkstatus'.trans hkstatus, hkiva'.trans hkiva, hregs.trans hregs', hmem.trans hmem',
    hout.trans hout'⟩

/-- The Machine handler's MRET finds 1, Kernel level, in `mpriv`, and the interrupted IP in `mra`. -/
theorem mret_undoes_entersMachine {cause ra : DWord} (hm : mode s = .kernel) (h : EntersMachine cause ra 1 s t) :
    ∃ u, exec .mret t = .next u ∧ u.pc = ra ∧ u.mstatus = s.mstatus ∧ SameKernelCsrs s u ∧ u.miva = s.miva ∧
      SameRegsBut [] s u ∧ SameMem s u ∧ SameOutside s u := by
  obtain ⟨hmra, -, hmpriv, -, hmode, hmiva, hstatus, hkernel, hregs, hmem, hout⟩ := h
  obtain ⟨u, hu, hpc, hmode', hstatus', ⟨hmiva', -⟩, hkernel', hregs', hmem', hout'⟩ :=
    (machineReturn t hmode).1 .kernel nofun (by simp [hmpriv, PrivMode.level])
  exact ⟨u, hu, hpc.trans hmra, mstatus_eq_of_mode_eq (hmode'.trans hm.symm) (hstatus.trans hstatus'),
    hkernel.trans hkernel', hmiva'.trans hmiva, hregs.trans hregs', hmem.trans hmem', hout.trans hout'⟩

end

/-- Settles O33: INT is the trap entry of its level (O30), and the return of that level follows it. -/
theorem returnUndoesTrap : Obligations.ReturnUndoesTrap := by
  intro imm s t h
  obtain ⟨huser, hkernel, -⟩ := interruptInstruction imm s
  refine ⟨fun hm => ?_, fun hm => ?_⟩
  · obtain ⟨t', ht', henters⟩ := huser hm
    cases h.symm.trans ht'
    exact sysret_undoes_entersKernel hm henters
  · obtain ⟨t', ht', henters⟩ := hkernel hm
    cases h.symm.trans ht'
    exact mret_undoes_entersMachine hm henters

/-! ## CSR writes at Machine level and the reserved level (R265, R401) -/

section
variable {s : State} (hm : mode s = .machine)
include hm

/-- Machine level may access every number below 1024 and those of Kernel level. -/
theorem csrAllowed_of_machine {k : CsrNum} (hk : k.toNat < 1024 ∨ 2048 ≤ k.toNat) : csrAllowed k s = true := by
  rw [csrAllowed_iff, hm]
  simp only [PrivMode.level]
  omega

theorem writeCsr_mstatus_of_reserved {v : DWord} (hv : modeField v = .reserved) :
    writeCsr 0 v s = .fault .reservedPrivilege := by
  have hreserved : writesReservedMode 0 v = true := by simp [writesReservedMode, hv]
  rw [writeCsr, if_pos (csrAllowed_of_machine hm (.inl (by decide))), if_pos hreserved]

theorem writeCsr_mstatus_of_machine {v : DWord} (hv : modeField v = .machine) :
    ∃ t, writeCsr 0 v s = .next t ∧ mode t = .machine := by
  have hlegal : ¬writesReservedMode 0 v = true := by simp [writesReservedMode, hv]
  refine ⟨advance (setCsr 0 v s), ?_, hv⟩
  rw [writeCsr, if_pos (csrAllowed_of_machine hm (.inl (by decide))), if_neg hlegal]

/-- Clearing bit 1 of the mode 3 leaves 2. -/
theorem modeField_clear_bit_one : modeField (s.mstatus &&& ~~~csrBitMask 1) = .reserved := by
  obtain ⟨-, h2⟩ := (modeField_eq_iff s.mstatus .machine).1 hm
  refine (modeField_eq_iff ..).2 ⟨?_, ?_⟩ <;>
    rw [BitVec.getLsbD_and, BitVec.getLsbD_not, getLsbD_csrBitMask _ (by decide)]
  · simp [PrivMode.toBits]
  · rw [h2]
    decide

/-- Setting a bit leaves the two ones of the mode 3. -/
theorem modeField_or_of_machine (mask : DWord) : modeField (s.mstatus ||| mask) = .machine := by
  obtain ⟨h1, h2⟩ := (modeField_eq_iff s.mstatus .machine).1 hm
  refine (modeField_eq_iff ..).2 ⟨?_, ?_⟩
  · rw [BitVec.getLsbD_or, h1]
    rfl
  · rw [BitVec.getLsbD_or, h2]
    rfl

end

theorem modeField_eq_reserved_iff (v : DWord) : modeField v = .reserved ↔ v.toNat / 2 % 4 = 2 := by
  rw [← modeField_level, ← PrivMode.level_injective.eq_iff]
  rfl

/-- Settles O38: only a write to csr0 can set the mode field, and the saved-mode CSRs are written whole. -/
theorem reservedLevelFaults : Obligations.ReservedLevelFaults := by
  intro rs1 s hm
  have hsaved : ∀ k ∈ [(4 : CsrNum), 2052], ∃ t, exec (.csrw rs1 k) s = .next t ∧ csrStored k t = readReg rs1 s := by
    intro k hk
    have hnum : (k.toNat < 1024 ∨ 2048 ≤ k.toNat) ∧ k ≠ 0 ∧ k ∈ definedCsrs := by
      revert k
      simp [definedCsrs]
    obtain ⟨hrange, hzero, hdefined⟩ := hnum
    obtain ⟨t, ht, hwritten, -⟩ := (csrWrite rs1 k s).1 (csrAllowed_of_machine hm hrange) fun h => absurd h hzero
    exact ⟨t, ht, hwritten hdefined⟩
  refine ⟨fun hv => ?_, ?_, fun p => ?_, hsaved 4 (by simp), hsaved 2052 (by simp)⟩
  · exact writeCsr_mstatus_of_reserved hm ((modeField_eq_reserved_iff _).2 hv)
  · rw [exec_csrc_of_lt 0 s (by decide)]
    exact writeCsr_mstatus_of_reserved hm (modeField_clear_bit_one hm)
  · rcases Nat.lt_or_ge p.toNat 32 with hp | hp
    · rw [exec_csrs_of_lt 0 s hp]
      exact writeCsr_mstatus_of_machine hm (modeField_or_of_machine hm _)
    · obtain ⟨t, ht, -, -, hcsrs, -⟩ := onlyMovesTo_csrs_of_le 0 s hp
      exact ⟨t, ht, hcsrs.mode_eq.trans hm⟩

/-! ## External interrupts at the boundary (R415) -/

section
variable {s : State}

/-- An accepted request at the head of the pending ones is the step. -/
theorem step_of_accepted {c : DWord} {rest : List DWord} (ha : acceptsIrq s = true) (hp : pendingIrqs s = c :: rest) :
    step s = trapEnter c s.pc (afterBoundary rest s) := by
  have hb : boundary s = (afterBoundary rest s, some c) := by simp [boundary, ha, hp]
  rw [step, hb]
  rfl

theorem quietBoundary_of_not_accepted (ha : acceptsIrq s = false) :
    QuietBoundary s (afterBoundary (pendingIrqs s) s) := by
  simp [QuietBoundary, boundary, ha]

end

/-- Settles O46: where the request is accepted the step is the trap entry of the level. -/
theorem externalInterruptTaken : Obligations.ExternalInterruptTaken := by
  intro s c rest hp
  have hstep : ∀ t, acceptsIrq s = true → trapEnter c s.pc (afterBoundary rest s) = .next t → step s = .next t :=
    fun t ha htrap => (step_of_accepted ha hp).trans htrap
  refine ⟨fun hm => ?_, fun hm hkie => ?_, fun hm hmie => ?_⟩
  · have ha : acceptsIrq s = true := by rw [acceptsIrq, hm]
    exact ⟨_, hstep _ ha (trapEnter_of_user _ _ hm), entersKernel_enterFromUser ..⟩
  · have ha : acceptsIrq s = true := by rw [acceptsIrq, hm, hkie]
    exact ⟨_, hstep _ ha (trapEnter_of_kernel _ _ hm), entersMachine_enterFromKernel ..⟩
  · have ha : acceptsIrq s = true := by rw [acceptsIrq, hm, hmie]
    exact ⟨_, hstep _ ha (trapEnter_of_machine _ _ hm), entersMachine_enterFromMachine _ _ hm⟩

theorem mem_queueInsert {n : Nat} {c d : DWord} {q : List DWord} : c ∈ queueInsert n d q ↔ c = d ∨ c ∈ q := by
  induction q generalizing n with
  | nil => cases n <;> simp [queueInsert]
  | cons e q ih =>
    cases n with
    | zero => simp [queueInsert]
    | succ n =>
      rw [queueInsert, List.mem_cons, List.mem_cons, ih]
      exact or_left_comm

/-- What is pending at a boundary is the queue and the request presented there. -/
theorem mem_pendingIrqs (s : State) (c : DWord) : c ∈ pendingIrqs s ↔
    c ∈ s.irqQueue ∨ ∃ slot, s.irqInput.head? = some (some { cause := c, slot := slot }) := by
  unfold pendingIrqs
  cases s.irqInput with
  | nil => simp
  | cons r rs =>
    cases r with
    | none => simp
    | some r =>
      obtain ⟨cause, slot⟩ := r
      simp [mem_queueInsert, or_comm, eq_comm]

/-- Settles O47: a request that is not accepted goes the way of the boundary, and the instruction at IP runs. -/
theorem maskedInterruptWaits : Obligations.MaskedInterruptWaits := by
  refine ⟨fun s hmasked => ?_, mem_pendingIrqs⟩
  have ha : acceptsIrq s = false := by
    rcases hmasked with ⟨hm, hkie⟩ | ⟨hm, hmie⟩
    · rw [acceptsIrq, hm, hkie]
    · exact acceptsIrq_of_machine_masked hm hmie
  have hquiet := quietBoundary_of_not_accepted ha
  refine ⟨_, hquiet, hquiet.step_eq, rfl, fun hdrop => ?_, fun depth hqueue => ?_⟩
  · rw [afterBoundary_irqQueue, hdrop]
    rfl
  · rw [afterBoundary_irqQueue, hqueue]
    rfl

end Sys2Proof.Machine
end

section
/-! SUPPORT. Which instructions complete in every state, what stops each of the others (R260, R278, R401, R406, R423),
and the statements about it. -/

namespace Sys2Proof.Machine

/-! ## Base and M instructions complete (R120, R160, R165, R400) -/

theorem condJump_eq_setPc (cond : DWord → DWord → Bool) (rs1 rs2 : RegNum) (imm : Imm12) (s : State) :
    ∃ target, condJump cond rs1 rs2 imm s = .next (setPc target s) := by
  unfold condJump
  split
  · exact ⟨_, rfl⟩
  · exact ⟨_, rfl⟩

/-- An instruction of the base set or the M extension that makes no memory access writes one register (or none), moves
IP, and completes. -/
theorem exec_eq_setPc_writeReg {i : Instr} (hi : i.extension = .base ∨ i.extension = .m) (hmem : i.memAccess = none)
    (s : State) : ∃ rd v target, exec i s = .next (setPc target (writeReg rd v s)) := by
  cases i with
  | stb | stw | std | ldb | ldw | ldd | ldsb | ldsw => cases hmem
  | stq | ldq | ldsd | int | sysret | mret | csrw | csrr | csrs | csrc | inb | inw | ind | insb | insw
  | outb | outw | outd => simp [Instr.extension] at hi
  | jeq | jlt | jslt | jne | jge | jsge => exact ⟨0, 0, condJump_eq_setPc ..⟩
  | _ => exact ⟨_, _, _, rfl⟩

/-- What `memAccess` names is a store, or is run as a load, of that width, base and displacement. -/
theorem storeWidth_or_load {i : Instr} {w : Width} {rs1 : RegNum} {imm : Imm12} (h : i.memAccess = some (w, rs1, imm)) :
    i.storeWidth = some (w, rs1, imm) ∨ ∃ x rd, ∀ s, exec i s = load w x rd rs1 imm s := by
  cases i with
  | stb | stw | std => exact .inl h
  | ldb rd | ldw rd | ldd rd | ldsb rd | ldsw rd =>
    cases h
    exact .inr ⟨_, rd, fun _ => rfl⟩
  | _ => cases h

/-- Where there is memory, and RAM for a store, an access completes without touching a CSR or anything outside. -/
theorem memAccess_completes {i : Instr} {w : Width} {rs1 : RegNum} {imm : Imm12} {s : State}
    (hi : i.memAccess = some (w, rs1, imm)) (hm : mapped w (accessAddr w rs1 imm s) s = true)
    (hw : i.storeWidth = some (w, rs1, imm) → writable w (accessAddr w rs1 imm s) s = true) :
    ∃ t, exec i s = .next t ∧ SameCsrs s t ∧ SameOutside s t := by
  rcases storeWidth_or_load hi with hstore | ⟨x, rd, hexec⟩
  · obtain ⟨rs2, hexec⟩ := exec_eq_store hstore
    obtain ⟨t, ht, ⟨-, -, -, -, hcsrs, hout⟩, -⟩ := next_of_store (hexec s) (hw hstore)
    exact ⟨t, ht, hcsrs, hout⟩
  · obtain ⟨t, ht, -, -, -, hcsrs, -, hout⟩ := completesWith_of_load (hexec s) hm rfl
    exact ⟨t, ht, hcsrs, hout⟩

/-- Settles O54: an instruction makes a memory access, or only writes a register and moves IP. -/
theorem baseInstructionsAlwaysComplete : Obligations.BaseInstructionsAlwaysComplete := by
  intro i s hi hmapped hwritable
  rcases hmem : i.memAccess with _ | ⟨w, rs1, imm⟩
  · obtain ⟨rd, v, target, hexec⟩ := exec_eq_setPc_writeReg hi hmem s
    obtain ⟨t, ht, -, -, -, hcsrs, -, hout⟩ := jumpsTo_of hexec
    exact ⟨t, ht, hcsrs, hout⟩
  · exact memAccess_completes hmem (hmapped w rs1 imm hmem) (hwritable w rs1 imm)

/-! ## What each fault stands for (R260, R278, R401, R423) -/

/-- The conditions under which an instruction stops, by the fault. -/
inductive FaultCause (i : Instr) (s : State) : Fault → Prop where
  | srm64 (hi : i.extension = .srm64) : FaultCause i s .illegalInstruction
  | unmapped {w : Width} {rs1 : RegNum} {imm : Imm12} (hi : i.memAccess = some (w, rs1, imm))
      (hm : mapped w (accessAddr w rs1 imm s) s = false) : FaultCause i s .unmappedAddress
  | rom {w : Width} {rs1 : RegNum} {imm : Imm12} (hi : i.storeWidth = some (w, rs1, imm))
      (hm : mapped w (accessAddr w rs1 imm s) s = true) (hw : writable w (accessAddr w rs1 imm s) s = false) :
      FaultCause i s .storeToRom
  | noDevice {w : Width} {rs1 : RegNum} {imm : Imm12} (hi : i.portAccess = some (w, rs1, imm)) (hm : mode s ≠ .user)
      (hp : portPresent (accessAddr w rs1 imm s) s = false) : FaultCause i s .noPortDevice
  | belowKernel (hi : i.portAccess.isSome = true ∨ i = .sysret) (hm : mode s = .user) :
      FaultCause i s .privilegeViolation
  | belowMachine (hi : i = .mret) (hm : mode s ≠ .machine) : FaultCause i s .privilegeViolation
  | trapFromReserved {imm : Imm21} (hi : i = .int imm) (hm : mode s = .reserved) : FaultCause i s .reservedPrivilege
  | reservesMode (h : WouldReserveMode i s) : FaultCause i s .reservedPrivilege

/-- The instruction completes, or it stops with a fault for its cause. -/
def CompletesOrFaults (i : Instr) (s : State) : Prop :=
  (∃ t, exec i s = .next t) ∨ ∃ f, exec i s = .fault f ∧ FaultCause i s f

theorem base_completesOrFaults {i : Instr} (hi : i.extension = .base ∨ i.extension = .m) (hmem : i.memAccess = none)
    (s : State) : CompletesOrFaults i s := by
  obtain ⟨_, _, _, hexec⟩ := exec_eq_setPc_writeReg hi hmem s
  exact .inl ⟨_, hexec⟩

theorem memAccess_completesOrFaults {i : Instr} {w : Width} {rs1 : RegNum} {imm : Imm12}
    (hi : i.memAccess = some (w, rs1, imm)) (s : State) : CompletesOrFaults i s := by
  obtain ⟨hunmapped, hrom, -⟩ := nothingBehindTheAddress i w rs1 imm s
  cases hm : mapped w (accessAddr w rs1 imm s) s with
  | false => exact .inr ⟨_, hunmapped hi hm, .unmapped hi hm⟩
  | true =>
    by_cases hw : i.storeWidth = some (w, rs1, imm) → writable w (accessAddr w rs1 imm s) s = true
    · obtain ⟨t, ht, -⟩ := memAccess_completes hi hm hw
      exact .inl ⟨t, ht⟩
    · obtain ⟨hstore, hw⟩ := Classical.not_imp.1 hw
      have hw := eq_false_of_ne_true hw
      exact .inr ⟨_, hrom hstore hm hw, .rom hstore hm hw⟩

theorem portAccess_completesOrFaults {i : Instr} {w : Width} {rs1 : RegNum} {imm : Imm12}
    (hi : i.portAccess = some (w, rs1, imm)) (s : State) : CompletesOrFaults i s := by
  by_cases hm : mode s = .user
  · have hport : i.portAccess.isSome = true := by rw [hi, Option.isSome_some]
    obtain ⟨hviolation, -⟩ := privilegeViolations i s
    exact .inr ⟨_, hviolation hm hport, .belowKernel (.inl hport) hm⟩
  · cases hp : portPresent (accessAddr w rs1 imm s) s with
    | false =>
      obtain ⟨-, -, habsent⟩ := nothingBehindTheAddress i w rs1 imm s
      exact .inr ⟨_, habsent hi hm hp, .noDevice hi hm hp⟩
    | true =>
      rcases exec_eq_portIn_or_portOut hi with ⟨x, rd, hexec⟩ | ⟨rs2, hexec⟩
      · obtain ⟨t, ht, -⟩ := next_of_portIn hm hp rfl (hexec s) rfl
        exact .inl ⟨t, ht⟩
      · obtain ⟨t, ht, -⟩ := next_of_portOut hm hp rfl (hexec s) rfl
        exact .inl ⟨t, ht⟩

theorem int_completesOrFaults (imm : Imm21) (s : State) : CompletesOrFaults (.int imm) s := by
  obtain ⟨huser, hkernel, hmachine, hreserved⟩ := interruptInstruction imm s
  cases hm : mode s with
  | user => exact .inl ((huser hm).imp fun _ => And.left)
  | kernel => exact .inl ((hkernel hm).imp fun _ => And.left)
  | machine => exact .inl ((hmachine hm).imp fun _ => And.left)
  | reserved => exact .inr ⟨_, hreserved hm, .trapFromReserved rfl hm⟩

/-- A return completes, or the saved mode is the reserved level. -/
theorem completesOrFaults_of_trapReturn {i : Instr} {ra v : DWord} {s : State} (hexec : exec i s = trapReturn ra v s)
    (hcause : v.toNat % 4 = 2 → WouldReserveMode i s) : CompletesOrFaults i s := by
  rw [trapReturn] at hexec
  split at hexec
  · exact .inr ⟨_, hexec, .reservesMode (hcause ((savedMode_eq_iff v .reserved).1 ‹_›))⟩
  · exact .inl ⟨_, hexec⟩

theorem mret_completesOrFaults (s : State) : CompletesOrFaults .mret s := by
  by_cases hm : mode s = .machine
  · exact completesOrFaults_of_trapReturn (exec_mret_of_machine hm) fun hv => .inl ⟨rfl, hm, hv⟩
  · exact .inr ⟨_, exec_mret_of_not_machine hm, .belowMachine rfl hm⟩

theorem sysret_completesOrFaults (s : State) : CompletesOrFaults .sysret s := by
  by_cases hm : mode s = .user
  · exact .inr ⟨_, exec_sysret_of_user hm, .belowKernel (.inr rfl) hm⟩
  · exact completesOrFaults_of_trapReturn (exec_sysret_of_not_user hm) fun hv => .inr (.inl ⟨rfl, hm, hv⟩)

/-- A CSR write completes, or it is made at Machine level and would put level 2 into csr0. -/
theorem completesOrFaults_of_writeCsr {i : Instr} {k : CsrNum} {v : DWord} {s : State}
    (hexec : exec i s = writeCsr k v s)
    (hcause : mode s = .machine → k = 0 → v.toNat / 2 % 4 = 2 → WouldReserveMode i s) : CompletesOrFaults i s := by
  rw [writeCsr] at hexec
  split_ifs at hexec with ha hv
  · simp only [writesReservedMode, Bool.and_eq_true, beq_iff_eq] at hv
    obtain ⟨rfl, hv⟩ := hv
    have hm := mode_eq_machine_of_csrAllowed ha (by decide)
    exact .inr ⟨_, hexec, .reservesMode (hcause hm rfl ((modeField_eq_reserved_iff v).1 hv))⟩
  · exact .inl ⟨_, hexec⟩
  · exact .inl ⟨_, hexec⟩

theorem csrw_completesOrFaults (rs1 : RegNum) (k : CsrNum) (s : State) : CompletesOrFaults (.csrw rs1 k) s :=
  completesOrFaults_of_writeCsr rfl fun hm hk hv => .inr (.inr ⟨hm, .inl ⟨rs1, hk ▸ rfl, hv⟩⟩)

theorem csrs_completesOrFaults (k : CsrNum) (pos : BitPos) (s : State) : CompletesOrFaults (.csrs k pos) s := by
  rcases Nat.lt_or_ge pos.toNat 32 with hpos | hpos
  · refine completesOrFaults_of_writeCsr (exec_csrs_of_lt k s hpos) fun hm hk hv => ?_
    subst hk
    exact .inr (.inr ⟨hm, .inr (.inl ⟨pos, rfl, hpos, hv⟩)⟩)
  · exact .inl ((onlyMovesTo_csrs_of_le k s hpos).imp fun _ => And.left)

theorem csrc_completesOrFaults (k : CsrNum) (pos : BitPos) (s : State) : CompletesOrFaults (.csrc k pos) s := by
  rcases Nat.lt_or_ge pos.toNat 32 with hpos | hpos
  · refine completesOrFaults_of_writeCsr (exec_csrc_of_lt k s hpos) fun hm hk hv => ?_
    subst hk
    exact .inr (.inr ⟨hm, .inr (.inr ⟨pos, rfl, hpos, hv⟩)⟩)
  · exact .inl ((onlyMovesTo_csrc_of_le k s hpos).imp fun _ => And.left)

theorem exec_completesOrFaults (i : Instr) (s : State) : CompletesOrFaults i s := by
  cases i with
  | stb | stw | std | ldb | ldw | ldd | ldsb | ldsw => exact memAccess_completesOrFaults rfl s
  | inb | inw | ind | insb | insw | outb | outw | outd => exact portAccess_completesOrFaults rfl s
  | stq | ldq | ldsd => exact .inr ⟨_, rfl, .srm64 rfl⟩
  | int imm => exact int_completesOrFaults imm s
  | sysret => exact sysret_completesOrFaults s
  | mret => exact mret_completesOrFaults s
  | csrw rs1 k => exact csrw_completesOrFaults rs1 k s
  | csrr rd k => exact .inl ⟨_, exec_csrr s rd k⟩
  | csrs k pos => exact csrs_completesOrFaults k pos s
  | csrc k pos => exact csrc_completesOrFaults k pos s
  | mul | smul | mulh | smulh | div | sdiv | mod | smod => exact base_completesOrFaults (.inr rfl) rfl s
  | _ => exact base_completesOrFaults (.inl rfl) rfl s

/-- Settles O55: an instruction completes or stops for a cause, so it is not refused and its fault has that cause. -/
theorem whatStopsAnInstruction : Obligations.WhatStopsAnInstruction := by
  refine ⟨fun i s r hrefused => ?_, fun i s f hf => ?_⟩
  · rcases exec_completesOrFaults i s with ⟨t, ht⟩ | ⟨f, hf, -⟩
    · simp [hrefused] at ht
    · simp [hrefused] at hf
  · obtain ⟨t, ht⟩ | ⟨f', hf', hcause⟩ := exec_completesOrFaults i s
    · simp [hf] at ht
    · cases hf.symm.trans hf'
      cases hcause with
      | srm64 hi => exact .inl ⟨rfl, hi⟩
      | unmapped hi hm => exact .inr (.inl ⟨rfl, _, _, _, hi, hm⟩)
      | rom hi hm hw => exact .inr (.inr (.inl ⟨rfl, _, _, _, hi, hm, hw⟩))
      | noDevice hi hm hp => exact .inr (.inr (.inr (.inl ⟨rfl, hm, _, _, _, hi, hp⟩)))
      | belowKernel hi hm => exact .inr (.inr (.inr (.inr (.inl ⟨rfl, .inl ⟨hm, hi⟩⟩))))
      | belowMachine hi hm => exact .inr (.inr (.inr (.inr (.inl ⟨rfl, .inr ⟨hm, hi⟩⟩))))
      | trapFromReserved hi hm => exact .inr (.inr (.inr (.inr (.inr ⟨rfl, .inl ⟨⟨_, hi⟩, hm⟩⟩))))
      | reservesMode h => exact .inr (.inr (.inr (.inr (.inr ⟨rfl, .inr h⟩))))

end Sys2Proof.Machine
end

section
/-! SUPPORT. A word placed at IP is fetched again (R61, R453; log 6), and the words of the spec's examples. -/

namespace Sys2Proof.Machine

/-! ## A placed word (R453) -/

/-- An aligned address is its own alignment (R63, R66). -/
theorem alignTo_dword_of_aligned {a : DWord} (ha : a.extractLsb' 0 2 = 0) : alignTo .dword a = a := by
  have hmod := (extractLsb_zero_two_eq_zero_iff a).1 ha
  apply BitVec.eq_of_toNat_eq
  rw [alignTo_dword_toNat]
  omega

/-- R60: the dword read back is the dword written, inside the address space. -/
theorem Memory.readBE_writeBE_dword {m : Memory} {a : Nat} (v : DWord) (hw : m.wf = true) (ha : a + 3 < 2 ^ 32) :
    (m.writeBE .dword a v).readBE .dword a = v := by
  obtain ⟨h0, h1, h2, h3⟩ := Memory.read_writeBE_dword a v hw ha
  rw [Memory.readBE, h0, h1, h2, h3]
  exact wordOfBytes_bytes v

section
variable {s : State}

/-- A placed word is no store: none of its bytes is on the record of stores. -/
theorem fetchIsStale_placeWord (v : DWord) (ha : s.pc.extractLsb' 0 2 = 0) : fetchIsStale (placeWord v s) = false := by
  rw [← Bool.not_eq_true, fetchIsStale_iff]
  rintro ⟨a, hmem, hlo, hhi⟩
  simp only [placeWord_storedTo, alignTo_dword_of_aligned ha, List.mem_filter, Bool.not_eq_true', List.contains_eq_mem,
    decide_eq_false_iff_not, mem_footprint_dword] at hmem
  obtain ⟨-, hout⟩ := hmem
  exact hout ⟨hlo, hhi⟩

/-- At an aligned IP with memory behind it the fetch gives the word placed there. -/
theorem fetch_placeWord (v : DWord) (ha : s.pc.extractLsb' 0 2 = 0) (hm : mapped .dword s.pc s = true)
    (hw : s.mem.wf = true) : fetch (placeWord v s) = .ok v := by
  have hmod := (extractLsb_zero_two_eq_zero_iff s.pc).1 ha
  have hfresh : ¬((placeWord v s).platform.fetch = .faultOnStale ∧ fetchIsStale (placeWord v s) = true) := by
    simp [fetchIsStale_placeWord v ha]
  rw [fetch_eq_loadMem (s := placeWord v s) hmod hfresh, loadMem_ok]
  refine ⟨(mapped_congr rfl _ _).trans hm, ?_⟩
  have hlt := s.pc.isLt
  rw [placeWord_pc, placeWord_mem, alignTo_dword_of_aligned ha]
  exact (Memory.readBE_writeBE_dword v hw (by omega)).symm

end

theorem decodeWord_of_decodeTableWord {nbits w : Nat} {i : Instr} (h : decodeTableWord nbits w = some i) :
    decodeWord (BitVec.ofNat 32 (w % 2 ^ nbits)) = .ok i := by
  unfold decodeTableWord at h
  split at h
  · cases h
    rename_i hd
    rw [bytesOfWord, decode_four, wordOfBytes_bytes] at hd
    exact hd
  · cases h

/-- At a quiet boundary the step is the placed instruction. -/
theorem step_withFetchWord {s t : State} {nbits w : Nat} {i : Instr}
    (hd : decodeWord (BitVec.ofNat 32 (w % 2 ^ nbits)) = .ok i) (hq : QuietBoundary (s.withFetchWord nbits w) t)
    (ha : s.pc.extractLsb' 0 2 = 0) (hm : mapped .dword s.pc s = true) (hw : s.mem.wf = true)
    (hi : i.assigned s.platform.variant = true) : step (s.withFetchWord nbits w) = exec i t := by
  rw [hq.step_eq]
  obtain ⟨q, rfl⟩ := hq.eq_afterBoundary
  exact runInstruction_eq_exec ((fetch_afterBoundary q _).trans (fetch_placeWord _ ha hm hw)) hd hi

/-- Settles O7: the placed word is fetched and decoded again, and at reset the boundary is quiet. -/
theorem placedWordRuns : Obligations.PlacedWordRuns := by
  refine ⟨fun s t nbits w i hd hq ha hm hw hi =>
    step_withFetchWord (decodeWord_of_decodeTableWord hd) hq ha hm hw hi, fun i hi => ?_⟩
  have hword : BitVec.ofNat 32 ((encode i).toNat % 2 ^ 32) = encode i := by
    rw [Nat.mod_eq_of_lt (encode i).isLt, BitVec.ofNat_toNat, BitVec.setWidth_eq]
  have hd : decodeWord (BitVec.ofNat 32 ((encode i).toNat % 2 ^ 32)) = .ok i := by rw [hword, decodeWord_encode]
  exact step_withFetchWord hd (reset_quietBoundary _) rfl reset_mapped_zero rfl hi

/-! ## The spec's examples (spec/95_test_vectors.md) -/

/-- A word that an instruction encodes to decodes to it (O1). -/
theorem decodeWord_of_encode_eq {i : Instr} {w : DWord} (h : encode i = w) : decodeWord w = .ok i :=
  h ▸ decodeWord_encode i

/-- Settles O5: each word is the one its instruction encodes to. -/
theorem specWordsDecode : Obligations.SpecWordsDecode := by
  refine ⟨?_, ?_, ?_, ?_, ?_, ?_, ?_, ?_, ?_, ?_, ?_, ?_, ?_, ?_, ?_, ?_⟩ <;>
    exact decodeWord_of_encode_eq (by decide)

end Sys2Proof.Machine
end
